-- ==== Sys2Proof/Word.lean ====
section
/-!
DEFINITION. The data types of the AES cipher core: bytes, byte vectors, words, blocks, and the named values of its
one- and two-bit registers (spec/00_scope.md R8, R10, R11; spec/10_state.md R20).
-/
namespace Sys2Proof

/-- A byte is an 8-bit value, bit 7 the most significant (R8). -/
abbrev Byte := BitVec 8

/-- A byte vector of length `n`, indexed 0..n-1; index 0 is the first byte (R10). -/
abbrev Bytes (n : Nat) := Vector Byte n

/-- A word is a byte vector of length 4; no rule treats it as a number (R10, D7). -/
abbrev Word := Bytes 4

/-- A 16-byte block or State; the State is column-major, `s[r][c] = STATE[r + 4c]` (R11, R23). -/
abbrev Block := Bytes 16

/-- The 32-byte key buffer `KEY` (R22). -/
abbrev KeyBytes := Bytes 32

/-- The physical key-schedule store `W`, 60 words (R24). -/
abbrev Schedule := Vector Word 60

/-- A value of the keySizeBits field: its KSB_W bits as an unsigned numeral. The width KSB_W is an open parameter (R7,
D5, U9), so it is no part of the type; where it matters it is an argument, and the core's own is `State.ksbW`
(log 11). -/
abbrev Ksb := Nat

/-- The vector whose element at index `i` is `f i`. -/
def tabulate {α : Type} {n : Nat} (f : Fin n → α) : Vector α n :=
  ⟨⟨List.ofFn f⟩, by simp⟩

/-- The operation of a command, register `OP` (R20, R26; codes in `Machine.opCode`). -/
inductive Op where
  | encrypt
  | decrypt
  deriving DecidableEq, Repr, Inhabited

/-- The only flag, register `STATUS` (R30; codes in `Machine.statusCode`). -/
inductive Status where
  | ok
  | invalidKeySize
  deriving DecidableEq, Repr, Inhabited

/-- The top level of the sequencer, register `PHASE` (R27; codes in `Machine.phaseCode`). -/
inductive Phase where
  | idle
  | kexp
  | run
  | done
  deriving DecidableEq, Repr, Inhabited

end Sys2Proof
end

