-- ==== Sys2Proof/Machine/Gf.lean ====
section
/-!
DEFINITION. Arithmetic in GF(2^8) modulo x^8+x^4+x^3+x+1 (spec/41_gf_arithmetic.md R120-R122). Addition is XOR.
-/
namespace Sys2Proof.Machine

/-- XTIME(b): shift left by one, then XOR 0x1b when the high bit was set before the shift (R120, C3). -/
def xtime (b : Byte) : Byte :=
  (b <<< 1) ^^^ (if b.getLsbD 7 then 0x1b#8 else 0x00#8)

/-- The loop of R121: `fuel` more bits of `b`, from bit `k` up, with the accumulator `p` and the running `a`. -/
def gmulLoop (b : Byte) : (fuel k : Nat) → (p a : Byte) → Byte
  | 0, _, p, _ => p
  | fuel + 1, k, p, a => gmulLoop b fuel (k + 1) (if b.getLsbD k then p ^^^ a else p) (xtime a)

/-- GMUL(a, b), shift-and-add from the least significant bit of `b` (R121). -/
def gmul (a b : Byte) : Byte := gmulLoop b 8 0 0x00#8 a

/-- The carry-less product of the low `n` bits of `b` with `a`, on 15 bits (R122, first loop). -/
def clmul (a b : Byte) : Nat → BitVec 15
  | 0 => 0#15
  | n + 1 => if b.getLsbD n then clmul a b n ^^^ (a.setWidth 15 <<< n) else clmul a b n

/-- The remainder modulo 0x11b: the degrees from `7 + n` down to 8 are cleared in turn (R122, second loop). -/
def polyReduce : Nat → BitVec 15 → BitVec 15
  | 0, r => r
  | n + 1, r => polyReduce n (if r.getLsbD (8 + n) then r ^^^ (0x11b#15 <<< n) else r)

/-- mul(a, b): the product of the two polynomials, reduced modulo x^8+x^4+x^3+x+1 (R122). -/
def polyMul (a b : Byte) : Byte := (polyReduce 7 (clmul a b 8)).setWidth 8

end Sys2Proof.Machine
end

