-- ==== Sys2Proof/Config.lean ====
section
/-!
DEFINITION. The free values: what the registers hold after a RESET step, which the spec calls unspecified
(spec/70_reset_and_hazards.md R250, spec/10_state.md R36; log 2). Each is an uninterpreted constant applied to the
number of the draw, so a claim holds whatever the value is. Before them the default of the one open parameter, KSB_W;
parameters the spec fixes are in `Word.lean` and `Machine/Operands.lean`.
-/
namespace Sys2Proof

/-- The default of KSB_W, the width of keySizeBits (R7, D5, U9): the width of a core after `State.reset` and of the
opcode table's command words. A core of any other width is a State with another `ksbW` (log 11). -/
def Config.ksbW : Nat := 32

/-- `KEY` after the `n`-th RESET step. -/
opaque Config.freeKey (n : Nat) : KeyBytes

/-- `BLK` after the `n`-th RESET step. -/
opaque Config.freeBlk (n : Nat) : Block

/-- `STATE` after the `n`-th RESET step. -/
opaque Config.freeState (n : Nat) : Block

/-- `W` after the `n`-th RESET step. -/
opaque Config.freeW (n : Nat) : Schedule

/-- `OUT` after the `n`-th RESET step. -/
opaque Config.freeOut (n : Nat) : Block

/-- `OP` after the `n`-th RESET step. -/
opaque Config.freeOp (n : Nat) : Op

/-- `KSB` after the `n`-th RESET step, a pattern of the core's `w` = KSB_W bits. -/
opaque Config.freeKsb (w n : Nat) : BitVec w

/-- `NK` after the `n`-th RESET step. -/
opaque Config.freeNk (n : Nat) : BitVec 4

/-- `NR` after the `n`-th RESET step. -/
opaque Config.freeNr (n : Nat) : BitVec 4

/-- `STATUS` after the `n`-th RESET step. -/
opaque Config.freeStatus (n : Nat) : Status

/-- `KIDX` after the `n`-th RESET step. -/
opaque Config.freeKidx (n : Nat) : BitVec 6

/-- `UPC` after the `n`-th RESET step. -/
opaque Config.freeUpc (n : Nat) : BitVec 6

end Sys2Proof
end

