-- ==== Sys2Proof/Syntax.lean ====
section
/-!
DEFINITION. The instructions: one constructor per row of spec/opcode_table.json (7 function units, 11 uops, 8 command
rows; spec/30_encoding.md R87). The data operands of a command (`cmd_key`, `cmd_block`) stand beside its word on the
command port (R81) and are read from there.
-/
namespace Sys2Proof

/-- One instruction: a function-unit application (R84), a micro-operation (R83) or a command (R81). -/
inductive Instr where
  /-- SBOX(a) (R110). -/
  | sbox (a : Byte)
  /-- INVSBOX(a) (R111). -/
  | invsbox (a : Byte)
  /-- XTIME(b) (R120). -/
  | xtime (b : Byte)
  /-- GMUL(a, b) (R121). -/
  | gmul (a b : Byte)
  /-- ROTWORD(w), w = (a, b, c, d) (R130). -/
  | rotword (a b c d : Byte)
  /-- SUBWORD(w), w = (a, b, c, d) (R131). -/
  | subword (a b c d : Byte)
  /-- RCON(j) (R132). -/
  | rcon (j : BitVec 4)
  /-- LOADSTATE (R170). -/
  | loadstate
  /-- STORESTATE (R171). -/
  | storestate
  /-- ADDROUNDKEY round (R156). -/
  | addroundkey (round : BitVec 4)
  /-- SUBBYTES (R150). -/
  | subbytes
  /-- SHIFTROWS (R152). -/
  | shiftrows
  /-- MIXCOLUMNS (R154). -/
  | mixcolumns
  /-- INVSUBBYTES (R151). -/
  | invsubbytes
  /-- INVSHIFTROWS (R153). -/
  | invshiftrows
  /-- INVMIXCOLUMNS (R155). -/
  | invmixcolumns
  /-- KEXP.COPY i (R135). -/
  | kexpCopy (i : BitVec 6)
  /-- KEXP.WORD i (R136). -/
  | kexpWord (i : BitVec 6)
  /-- ENCRYPT.128 (R208). -/
  | encrypt128
  /-- ENCRYPT.192 (R209). -/
  | encrypt192
  /-- ENCRYPT.256 (R210). -/
  | encrypt256
  /-- DECRYPT.128 (R211). -/
  | decrypt128
  /-- DECRYPT.192 (R212). -/
  | decrypt192
  /-- DECRYPT.256 (R213). -/
  | decrypt256
  /-- ENCRYPT with `ksb` as a field (R206). -/
  | encrypt (ksb : Ksb)
  /-- DECRYPT with `ksb` as a field (R207). -/
  | decrypt (ksb : Ksb)
  deriving DecidableEq, Repr

end Sys2Proof
end

