-- ==== Sys2Proof/WellFormed.lean ====
section
/-!
DEFINITION. Which terms of `Instr` the encoding can stand for (spec/30_encoding.md R83, R86, R88), on a core whose
keySizeBits field has a given width KSB_W (R7, D5).
-/
namespace Sys2Proof

/-- The three recognised values of keySizeBits (R82). -/
def recognisedKsb (ksb : Ksb) : Bool :=
  ksb == 128 || ksb == 192 || ksb == 256

/-- A value of keySizeBits that a field of `w` bits can hold (R7: "the values it can hold"). -/
def fitsKsb (w : Nat) (ksb : Ksb) : Bool := decide (ksb < 2 ^ w)

/-- An instruction is well formed when its operands are those the spec gives a meaning in some state: the RCON index
is 1..10, an ADDROUNDKEY round at most 14, a KEXP.COPY index at most 7, a KEXP.WORD index 4..59; a command's
keySizeBits fits the field of `w` = KSB_W bits, as 128, 192 and 256 do when KSB_W is at least 9; and a generic command
carries an unrecognised key size, since a recognised one is the exact row's (R86, R88). -/
def Instr.wellFormed (w : Nat) : Instr → Bool
  | .sbox _ => true
  | .invsbox _ => true
  | .xtime _ => true
  | .gmul _ _ => true
  | .rotword _ _ _ _ => true
  | .subword _ _ _ _ => true
  | .rcon j => decide (1 ≤ j.toNat ∧ j.toNat ≤ 10)
  | .loadstate => true
  | .storestate => true
  | .addroundkey round => decide (round.toNat ≤ 14)
  | .subbytes => true
  | .shiftrows => true
  | .mixcolumns => true
  | .invsubbytes => true
  | .invshiftrows => true
  | .invmixcolumns => true
  | .kexpCopy i => decide (i.toNat ≤ 7)
  | .kexpWord i => decide (4 ≤ i.toNat ∧ i.toNat ≤ 59)
  | .encrypt128 => fitsKsb w 128
  | .encrypt192 => fitsKsb w 192
  | .encrypt256 => fitsKsb w 256
  | .decrypt128 => fitsKsb w 128
  | .decrypt192 => fitsKsb w 192
  | .decrypt256 => fitsKsb w 256
  | .encrypt ksb => fitsKsb w ksb && !recognisedKsb ksb
  | .decrypt ksb => fitsKsb w ksb && !recognisedKsb ksb

end Sys2Proof
end

