-- ==== Sys2Proof/Decode.lean ====
section
/-!
DEFINITION. Decoding and encoding (spec/30_encoding.md R80-R88, spec/opcode_table.json). There are three formats and
each reaches the machine at a place of its own: a command word on the command port (1 + KSB_W bits), a uop word on the
sequencer's bus (10 bits), an operand on the bus of one function unit (no opcode bits: the unit is the place). So the
thing decoded is `Encoded`, the place together with its bits. After the decoder, the encoder, from the same tables; it
takes KSB_W as an argument, 33 bits being the default's (R7, R80, D5; log 11).
-/
namespace Sys2Proof

/-- An operand on the bus of one function unit, first field most significant (R84). -/
inductive FnBus where
  | sbox (bus : BitVec 8)
  | invsbox (bus : BitVec 8)
  | xtime (bus : BitVec 8)
  | gmul (bus : BitVec 16)
  | rotword (bus : BitVec 32)
  | subword (bus : BitVec 32)
  | rcon (bus : BitVec 4)
  deriving DecidableEq, Repr

/-- An encoded instruction: which format it has, and its bits (R80). -/
inductive Encoded where
  /-- a command word, `op ‖ ksb`, on a port with `w` = KSB_W bits of keySizeBits (R81) -/
  | cmd (w : Nat) (word : BitVec (1 + w))
  /-- a uop word, `usel ‖ arg` (R83) -/
  | uop (word : BitVec 10)
  /-- an operand on a function unit's bus (R84) -/
  | fn (bus : FnBus)
  deriving DecidableEq, Repr

/-- Why a word is refused (R88). -/
inductive DecodeError where
  /-- `usel` 0xB..0xF -/
  | reservedUsel (usel : BitVec 4)
  /-- a nonzero `arg` on a uop whose arg is 0 -/
  | nonzeroArg (usel : BitVec 4) (arg : BitVec 6)
  /-- `arg[5:4]` not 0, or a round above 14, on ADDROUNDKEY -/
  | badRound (arg : BitVec 6)
  /-- a KEXP index no key size has -/
  | badKexpIndex (usel : BitVec 4) (arg : BitVec 6)
  /-- an RCON index outside 1..10 -/
  | badRconIndex (j : BitVec 4)
  deriving DecidableEq, Repr

/-- A word that a core with KSB_W = `w` can be given: its command port is as wide as its keySizeBits field asks. -/
def Encoded.hasWidth (w : Nat) : Encoded → Bool
  | .cmd w' _ => w' == w
  | .uop _ => true
  | .fn _ => true

/-! ### Decoding -/

/-- A uop whose `arg` must be 0 (R83, R88). -/
def plainUop (usel : BitVec 4) (arg : BitVec 6) (i : Instr) : Except DecodeError Instr :=
  if arg = 0#6 then .ok i else .error (.nonzeroArg usel arg)

/-- The uop a `usel` and an `arg` name (R83); what R88 says has no meaning is refused. -/
def decodeUopFields (usel : BitVec 4) (arg : BitVec 6) : Except DecodeError Instr :=
  match usel with
  | 0x0#4 => plainUop usel arg .loadstate
  | 0x1#4 => plainUop usel arg .storestate
  | 0x2#4 => if arg.toNat ≤ 14 then .ok (.addroundkey (arg.extractLsb' 0 4)) else .error (.badRound arg)
  | 0x3#4 => plainUop usel arg .subbytes
  | 0x4#4 => plainUop usel arg .shiftrows
  | 0x5#4 => plainUop usel arg .mixcolumns
  | 0x6#4 => plainUop usel arg .invsubbytes
  | 0x7#4 => plainUop usel arg .invshiftrows
  | 0x8#4 => plainUop usel arg .invmixcolumns
  | 0x9#4 => if arg.toNat ≤ 7 then .ok (.kexpCopy arg) else .error (.badKexpIndex usel arg)
  | 0xA#4 => if 4 ≤ arg.toNat ∧ arg.toNat ≤ 59 then .ok (.kexpWord arg) else .error (.badKexpIndex usel arg)
  | _ => .error (.reservedUsel usel)

/-- A uop word: `usel` in bits 9:6, `arg` in bits 5:0 (R83). -/
def decodeUop (word : BitVec 10) : Except DecodeError Instr :=
  decodeUopFields (word.extractLsb' 6 4) (word.extractLsb' 0 6)

/-- The `op` bit of a command word, its most significant bit (R81). -/
def cmdOpBit {w : Nat} (word : BitVec (1 + w)) : BitVec 1 := word.extractLsb' w 1

/-- The `ksb` field of a command word, its low KSB_W bits (R81). -/
def cmdKsbField {w : Nat} (word : BitVec (1 + w)) : Ksb := (word.extractLsb' 0 w).toNat

/-- The row an `op` bit and a `ksb` name: the exact row of a recognised key size first, then the generic row of the
`op` bit (R86). -/
def cmdRow (op : BitVec 1) (ksb : Ksb) : Instr :=
  if op = 0#1 then
    if ksb = 128 then .encrypt128 else if ksb = 192 then .encrypt192 else if ksb = 256 then .encrypt256
    else .encrypt ksb
  else
    if ksb = 128 then .decrypt128 else if ksb = 192 then .decrypt192 else if ksb = 256 then .decrypt256
    else .decrypt ksb

/-- A command word, of whatever width the port has (R81, R86). -/
def decodeCmd {w : Nat} (word : BitVec (1 + w)) : Instr := cmdRow (cmdOpBit word) (cmdKsbField word)

/-- The operand of a function unit (R84). RCON is defined for 1..10 only (R132, R88). -/
def decodeFn : FnBus → Except DecodeError Instr
  | .sbox bus => .ok (.sbox bus)
  | .invsbox bus => .ok (.invsbox bus)
  | .xtime bus => .ok (.xtime bus)
  | .gmul bus => .ok (.gmul (bus.extractLsb' 8 8) (bus.extractLsb' 0 8))
  | .rotword bus =>
    .ok (.rotword (bus.extractLsb' 24 8) (bus.extractLsb' 16 8) (bus.extractLsb' 8 8) (bus.extractLsb' 0 8))
  | .subword bus =>
    .ok (.subword (bus.extractLsb' 24 8) (bus.extractLsb' 16 8) (bus.extractLsb' 8 8) (bus.extractLsb' 0 8))
  | .rcon bus => if 1 ≤ bus.toNat ∧ bus.toNat ≤ 10 then .ok (.rcon bus) else .error (.badRconIndex bus)

/-- The decoder: total, and a refusal names its reason. -/
def decode : Encoded → Except DecodeError Instr
  | .cmd _ word => .ok (decodeCmd word)
  | .uop word => decodeUop word
  | .fn bus => decodeFn bus

/-! ### Encoding -/

/-- The uop word `usel ‖ arg` (R83). -/
def uopWord (usel : BitVec 4) (arg : BitVec 6) : Encoded :=
  .uop (usel ++ arg)

/-- The command word `op ‖ ksb` on a port with `w` = KSB_W bits of keySizeBits (R81). -/
def cmdWord (w : Nat) (op : BitVec 1) (ksb : Ksb) : Encoded :=
  .cmd w (op ++ BitVec.ofNat w ksb)

/-- The words of an instruction on a core with KSB_W = `w` (R83, R84, R86). -/
def encode (w : Nat) : Instr → Encoded
  | .sbox a => .fn (.sbox a)
  | .invsbox a => .fn (.invsbox a)
  | .xtime b => .fn (.xtime b)
  | .gmul a b => .fn (.gmul (a ++ b))
  | .rotword a b c d => .fn (.rotword (a ++ b ++ c ++ d))
  | .subword a b c d => .fn (.subword (a ++ b ++ c ++ d))
  | .rcon j => .fn (.rcon j)
  | .loadstate => uopWord 0x0#4 0#6
  | .storestate => uopWord 0x1#4 0#6
  | .addroundkey round => uopWord 0x2#4 (0#2 ++ round)
  | .subbytes => uopWord 0x3#4 0#6
  | .shiftrows => uopWord 0x4#4 0#6
  | .mixcolumns => uopWord 0x5#4 0#6
  | .invsubbytes => uopWord 0x6#4 0#6
  | .invshiftrows => uopWord 0x7#4 0#6
  | .invmixcolumns => uopWord 0x8#4 0#6
  | .kexpCopy i => uopWord 0x9#4 i
  | .kexpWord i => uopWord 0xA#4 i
  | .encrypt128 => cmdWord w 0#1 128
  | .encrypt192 => cmdWord w 0#1 192
  | .encrypt256 => cmdWord w 0#1 256
  | .decrypt128 => cmdWord w 1#1 128
  | .decrypt192 => cmdWord w 1#1 192
  | .decrypt256 => cmdWord w 1#1 256
  | .encrypt ksb => cmdWord w 0#1 ksb
  | .decrypt ksb => cmdWord w 1#1 ksb

/-! ### The opcode table's numbering -/

/-- The place at which `nbits` bits of the opcode table stand, numbered as the table numbers them. A function-unit row
has no opcode bits, so where several rows share a width the first of the table is taken, and a uop, whose 10 bits
fill two bytes, before GMUL (log 14). The table gives command words at the default KSB_W, 33 bits (R86; log 11). -/
def tableWord (nbits w : Nat) : Option Encoded :=
  if nbits = 4 then some (.fn (.rcon (BitVec.ofNat 4 w)))
  else if nbits = 8 then some (.fn (.sbox (BitVec.ofNat 8 w)))
  else if nbits = 10 ∨ (nbits = 16 ∧ w < 1024) then some (.uop (BitVec.ofNat 10 w))
  else if nbits = 16 then some (.fn (.gmul (BitVec.ofNat 16 w)))
  else if nbits = 32 then some (.fn (.rotword (BitVec.ofNat 32 w)))
  else if nbits = 33 ∨ (nbits = 40 ∧ w < 8589934592) then some (.cmd Config.ksbW (BitVec.ofNat (1 + Config.ksbW) w))
  else none

/-- The instruction the decoder reads from an instruction whose bits are `w`. -/
def decodeTableWord (nbits w : Nat) : Option Instr :=
  match tableWord nbits w with
  | none => none
  | some e =>
    match decode e with
    | .ok i => some i
    | .error _ => none

end Sys2Proof
end

