-- ==== Sys2Proof/Machine/State.lean ====
section
/-!
DEFINITION. The state of the AES cipher core (spec/10_state.md R20), the host's wires beside it (R34), the reasons a
step can stop, and the state after reset (R36).
-/
namespace Sys2Proof.Machine

/-- The input wires, as the host drives them at one step (R34). -/
structure Pins where
  /-- reset request -/
  rst : Bool
  /-- 1 while the host offers a command -/
  cmdValid : Bool
  /-- 0 = ENCRYPT, 1 = DECRYPT -/
  cmdOp : BitVec 1
  /-- keySizeBits, as the host drives it; the port has KSB_W wires for it (`portKsb`) -/
  cmdKsb : Ksb
  /-- the key, byte k at bits [255 - 8k : 248 - 8k] -/
  cmdKey : BitVec 256
  /-- the input block, byte k at bits [127 - 8k : 120 - 8k] -/
  cmdBlock : BitVec 128
  /-- 1 while the host can take a response -/
  rspReady : Bool
  deriving DecidableEq, Repr

/-- A host that drives nothing. -/
def Pins.quiet : Pins :=
  { rst := false, cmdValid := false, cmdOp := 0#1, cmdKsb := 0, cmdKey := 0#256, cmdBlock := 0#128,
    rspReady := false }

/-- What a response says: the sum type of R85, with no block in the error case (C7). -/
inductive Response where
  | ok (block : Block)
  | invalidKeySize
  deriving DecidableEq, Repr

/-- What a function unit drives on its result bus (R84: a byte, or a word for ROTWORD and SUBWORD). -/
inductive FnResult where
  /-- no unit has been applied yet -/
  | idle
  | byte (b : Byte)
  | word (w : Word)
  deriving DecidableEq, Repr

/-- The state: the parameter KSB_W of the core, which no step changes (log 11); the thirteen registers of R20; then what
the host drives and has received, and the model's own fields (log 2 to 5). -/
structure State where
  /-- `KSB_W`, the width of `KSB` and of `cmd_ksb` in bits, open in the spec (R7, D5, U9) -/
  ksbW : Nat
  /-- `KEY`, the key bytes latched from the command (R22) -/
  key : KeyBytes
  /-- `BLK`, the input block latched from the command (R25) -/
  blk : Block
  /-- `STATE`, the 4x4 State, `s[r][c] = STATE[r + 4c]` (R23) -/
  state : Block
  /-- `W`, the round-key words (R24) -/
  w : Schedule
  /-- `OUT`, the output block (R25) -/
  out : Block
  /-- `OP`, the latched operation (R26) -/
  op : Op
  /-- `KSB`, the latched keySizeBits, KSB_W bits (R26; `KsbFits` says it holds no more) -/
  ksb : Ksb
  /-- `NK` (R26) -/
  nk : BitVec 4
  /-- `NR` (R26) -/
  nr : BitVec 4
  /-- `STATUS`, the only flag (R30) -/
  status : Status
  /-- `PHASE` (R27) -/
  phase : Phase
  /-- `KIDX`, the next schedule word to write (R28) -/
  kidx : BitVec 6
  /-- `UPC`, the next uop of the round sequence (R29) -/
  upc : BitVec 6
  /-- the input wires at this step (R34; log 3) -/
  pins : Pins
  /-- the input wires at the coming steps, next first (log 3) -/
  plan : List Pins
  /-- the responses the host has taken, oldest first (R204; log 4) -/
  received : List Response
  /-- an operand put on a function unit's bus from outside the sequencer (R84; log 5) -/
  fnIn : Option FnBus
  /-- the last result a function unit drove (R84; log 5) -/
  fnOut : FnResult
  /-- how many RESET steps have drawn free values (log 2) -/
  draws : Nat
  deriving DecidableEq, Repr

/-- Why the machine stops. The core itself has no such case (R234: "stuck: none inside the core"). -/
inductive Fault where
  /-- Raised by `step` alone, when PHASE = RUN and (OP, NR, UPC) is outside both micro-programs (R172, R173), so that
  the sequencer has no uop. No run from reset reaches it (R39 a, R203). Safe: the model stops where the spec says
  nothing (log 10). -/
  | noUop
  deriving DecidableEq, Repr

/-- Why an instruction is refused. -/
inductive Refusal where
  /-- Raised by an arm of `exec` for an instruction the model gives no meaning. Safe. No arm raises it. -/
  | notModelled (mnemonic : String)
  /-- Raised by `step` when the word presented has no meaning (R88). Safe: the spec says a model must refuse it. -/
  | illegalWord (reason : DecodeError)
  /-- Raised by ADDROUNDKEY, KEXP.COPY and KEXP.WORD when the argument is outside the range the registers NK and NR
  give it (R88, R135, R136, R156). Safe: the spec gives it no meaning (log 8). -/
  | argumentOutOfRange
  /-- Raised by RCON for an index outside 1..10 (R132, R88, U4). Safe: the spec says a model refuses it. -/
  | rconIndex (j : BitVec 4)
  deriving DecidableEq, Repr

/-- The machine right after reset: PHASE is IDLE (R36, R250); R36 leaves every other register unspecified, and the
value here is the model's (DESIGN CHOICE, unsafe: log 1). The host drives nothing (log 3). KSB_W
is at its default (log 11). -/
def State.reset : State where
  ksbW := Config.ksbW
  key := Vector.replicate 32 0#8
  blk := Vector.replicate 16 0#8
  state := Vector.replicate 16 0#8
  w := Vector.replicate 60 (Vector.replicate 4 0#8)
  out := Vector.replicate 16 0#8
  op := .encrypt
  ksb := 0
  nk := 0#4
  nr := 0#4
  status := .ok
  phase := .idle
  kidx := 0#6
  upc := 0#6
  pins := Pins.quiet
  plan := []
  received := []
  fnIn := none
  fnOut := .idle
  draws := 0

end Sys2Proof.Machine
end

