-- ==== Sys2Proof/Machine/Operands.lean ====
section
/-!
DEFINITION. The operand forms: the codes of the scalar registers, the packing of byte vectors on the wide buses
(spec/20_memory.md R54), the decoding of keySizeBits (spec/30_encoding.md R82), and the words and slices that the uops
take from KEY and W (R52, R53). Every index is shown to be in range where it is used (R58).
-/
namespace Sys2Proof.Machine

/-! ### Codes -/

/-- `OP`: 0 = ENCRYPT, 1 = DECRYPT (R7, D3). -/
def opOfCode (c : BitVec 1) : Op := if c = 0#1 then .encrypt else .decrypt

/-- The bit of an operation (R7, D3). -/
def opCode : Op → BitVec 1
  | .encrypt => 0#1
  | .decrypt => 1#1

/-- `STATUS` as `rsp_status` shows it: 0 = OK, 1 = INVALID_KEY_SIZE (R85, D4). -/
def statusCode : Status → BitVec 1
  | .ok => 0#1
  | .invalidKeySize => 1#1

/-- `PHASE`: 0 = IDLE, 1 = KEXP, 2 = RUN, 3 = DONE (R20). -/
def phaseCode : Phase → BitVec 2
  | .idle => 0#2
  | .kexp => 1#2
  | .run => 2#2
  | .done => 3#2

/-! ### Byte vectors on buses -/

/-- The byte vector on an `n`-byte bus: byte `k` is bits [8(n-1-k)+7 : 8(n-1-k)] (R54). -/
def busBytes (n : Nat) (bus : BitVec (8 * n)) : Bytes n :=
  tabulate fun k => bus.extractLsb' (8 * (n - 1 - k.val)) 8

/-- The bus value of a list of bytes, the first byte most significant (R54). -/
def packList : List Byte → Nat
  | [] => 0
  | b :: bs => b.toNat * 2 ^ (8 * bs.length) + packList bs

/-- The `n`-byte bus that carries a byte vector (R54). -/
def busOf {n : Nat} (v : Bytes n) : BitVec (8 * n) := BitVec.ofNat (8 * n) (packList v.toList)

/-! ### Key sizes -/

/-- A recognised key size (R2, R82). -/
inductive KeySize where
  | aes128
  | aes192
  | aes256
  deriving DecidableEq, Repr

/-- Nk, the key length in words (R6). -/
def KeySize.words : KeySize → Nat
  | .aes128 => 4
  | .aes192 => 6
  | .aes256 => 8

/-- Nr, the number of rounds, Nk + 6 (R6). -/
def KeySize.rounds (k : KeySize) : Nat := k.words + 6

/-- The number of schedule words, 4(Nr+1) (R6, C2). -/
def KeySize.scheduleWords (k : KeySize) : Nat := 4 * (k.rounds + 1)

/-- `cmd_ksb` as the core sees it: the value on the port's KSB_W wires (R34, D5; log 11). -/
def portKsb (s : State) : Ksb := s.pins.cmdKsb % 2 ^ s.ksbW

/-- decode_ksb: equality with 128, 192, 256; any other value is invalid (R82). It is the same at every width (D5). -/
def decodeKsb (ksb : Ksb) : Option KeySize :=
  if ksb = 128 then some .aes128
  else if ksb = 192 then some .aes192
  else if ksb = 256 then some .aes256
  else none

/-- The key size whose Nk and Nr the registers hold, if they hold one of the three legal pairs (R26). -/
def keySizeOf (nk nr : BitVec 4) : Option KeySize :=
  if nk = 4#4 ∧ nr = 10#4 then some .aes128
  else if nk = 6#4 ∧ nr = 12#4 then some .aes192
  else if nk = 8#4 ∧ nr = 14#4 then some .aes256
  else none

/-! ### Words and slices -/

/-- XOR of two words, byte by byte (R9, R136). -/
def xorWord (a b : Word) : Word := tabulate fun j => a[j] ^^^ b[j]

/-- Word `i` of the key: KEY[4i], KEY[4i+1], KEY[4i+2], KEY[4i+3] (R52). -/
def keyWord (key : KeyBytes) (i : Nat) (h : i < 8) : Word :=
  tabulate fun j => key[4 * i + j.val]

/-- Round key `round` as a byte vector: rk[4c + j] = W[4 round + c][j] (R24, R53). -/
def roundKey {n : Nat} (w : Vector Word n) (round : Nat) (h : 4 * round + 3 < n) : Block :=
  tabulate fun k => w[4 * round + k.val / 4][k.val % 4]

/-- The byte of row `r`, column `c` of the State: STATE[r + 4c], row and column taken modulo 4 (R9, R11, R23). -/
def cell (s : Block) (r c : Nat) : Byte := s[r % 4 + 4 * (c % 4)]

end Sys2Proof.Machine
end

