-- ==== Sys2Proof/Machine/Flags.lean ====
section
/-!
DEFINITION. The only flag, STATUS (spec/10_state.md R30), and what the output wires show of it (R34, R85). No datapath
operation computes a flag (R30, R124).
-/
namespace Sys2Proof.Machine

/-- What ACCEPT writes to STATUS: OK exactly when keySizeBits is 128, 192 or 256 (R30). -/
def statusOf (ksb : Ksb) : Status :=
  match decodeKsb ksb with
  | some _ => .ok
  | none => .invalidKeySize

/-- The response of a status and an output block: in the error case there is no block (R85, C7, U3; log 12). -/
def responseOf (status : Status) (out : Block) : Response :=
  match status with
  | .ok => .ok out
  | .invalidKeySize => .invalidKeySize

/-- `cmd_ready`: 1 exactly when PHASE = IDLE (R34). -/
def cmdReady (s : State) : Bool := s.phase == .idle

/-- `rsp_valid`: 1 exactly when PHASE = DONE (R34). -/
def rspValid (s : State) : Bool := s.phase == .done

/-- `rsp_status` is STATUS (R34). -/
def rspStatus (s : State) : BitVec 1 := statusCode s.status

/-- `rsp_block` is OUT, byte 0 most significant; it means something only when a response is offered with status OK
(R34, R85), and elsewhere the model gives it no value (C7, U3; log 12). -/
def rspBlock (s : State) : Option (BitVec 128) :=
  match s.phase, s.status with
  | .done, .ok => some (busOf s.out)
  | _, _ => none

end Sys2Proof.Machine
end

