-- ==== Sys2Proof/Machine/Ops.lean ====
section
/-!
DEFINITION. The named operations on the state that the steps are made of: what ACCEPT latches, taking the one
exception and leaving it (spec/60_exceptions.md R222, R224), the writes of a uop, RESET, and the host's turn.
-/
namespace Sys2Proof.Machine

/-- What every ACCEPT latches: OP and KSB from the command word, KEY and BLK from the wires beside it (R201). -/
def latchCommand (op : Op) (ksb : Ksb) (s : State) : State :=
  { s with op := op, ksb := ksb, key := busBytes 32 s.pins.cmdKey, blk := busBytes 16 s.pins.cmdBlock }

/-- The rest of an ACCEPT with a valid key size (R201): NK, NR, STATUS <- OK, KIDX <- 0, PHASE <- KEXP. -/
def beginKexp (k : KeySize) (s : State) : State :=
  { s with nk := BitVec.ofNat 4 k.words, nr := BitVec.ofNat 4 k.rounds, status := .ok, kidx := 0#6, phase := .kexp }

/-- Taking InvalidKeySize: STATUS <- INVALID_KEY_SIZE, PHASE <- DONE, and nothing else; no state is saved (R202,
R222). -/
def raiseInvalidKeySize (s : State) : State :=
  { s with status := .invalidKeySize, phase := .done }

/-- RESPOND: the host takes (STATUS, OUT) and PHASE <- IDLE (R204). It is also the return from InvalidKeySize; nothing
is restored because nothing was saved (R224). -/
def respond (s : State) : State :=
  { s with phase := .idle, received := s.received ++ [responseOf s.status s.out] }

/-- The end of a round-transform uop or of LOADSTATE: STATE <- v, UPC <- UPC + 1 (R174). UPC never reaches 63
(R33; log 9). -/
def putState (v : Block) (s : State) : State :=
  { s with state := v, upc := s.upc + 1#6 }

/-- STORESTATE's writes: OUT <- STATE, PHASE <- DONE, UPC <- UPC + 1 (R171, R174). -/
def putOut (s : State) : State :=
  { s with out := s.state, phase := .done, upc := s.upc + 1#6 }

/-- The common writes of a KEXP uop: W[i] <- v, KIDX <- KIDX + 1 (R135, R136). KIDX never reaches 63 (R33; log 9). -/
def putWord (i : Nat) (h : i < 60) (v : Word) (s : State) : State :=
  { s with w := s.w.set i v h, kidx := s.kidx + 1#6 }

/-- The last KEXP step besides: PHASE <- RUN, UPC <- 0 (R136). -/
def beginRun (s : State) : State :=
  { s with phase := .run, upc := 0#6 }

/-- A function unit drives its result bus; no register is written (R13, R84; log 5). -/
def driveFn (r : FnResult) (s : State) : State :=
  { s with fnOut := r }

/-- RESET: PHASE <- IDLE, and every other register of R20 becomes unspecified, a free value (R250; log 2). -/
def resetRegisters (s : State) : State :=
  { s with
    key := Config.freeKey s.draws, blk := Config.freeBlk s.draws, state := Config.freeState s.draws,
    w := Config.freeW s.draws, out := Config.freeOut s.draws, op := Config.freeOp s.draws,
    ksb := (Config.freeKsb s.ksbW s.draws).toNat, nk := Config.freeNk s.draws, nr := Config.freeNr s.draws,
    status := Config.freeStatus s.draws, phase := .idle, kidx := Config.freeKidx s.draws,
    upc := Config.freeUpc s.draws, draws := s.draws + 1 }

/-- Between two steps the host drives what its plan says next; with no plan left the wires keep their values
(log 3). -/
def hostTurn (s : State) : State :=
  match s.plan with
  | [] => s
  | p :: ps => { s with pins := p, plan := ps }

/-- An operand that a step has taken from a function unit's bus is gone (log 5). -/
def clearFn (s : State) : State :=
  { s with fnIn := none }

end Sys2Proof.Machine
end

