-- ==== Sys2Proof/Machine/Tables.lean ====
section
/-!
DEFINITION. The three ROMs (spec/10_state.md R31): the S-box and inverse S-box (spec/40_sbox.md R112, R113) and the
round constants (spec/42_key_expansion.md R132). A row of a table is written as the spec prints it: one numeral whose
two-digit groups, from the left, are the entries of columns x0..xF.
-/
namespace Sys2Proof.Machine

/-- Entry `a` of a 256-entry table: row `a[7:4]`, column `a[3:0]` (R112). -/
def romEntry (rows : Vector (BitVec 128) 16) (a : Byte) : Byte :=
  let row := rows[(a.extractLsb' 4 4).toNat]
  let column := (a.extractLsb' 0 4).toNat
  row.extractLsb' (8 * (15 - column)) 8

/-- The forward table (R112). Its entries are the spec's, which marks them as general knowledge of FIPS-197 (G1;
log 15). -/
def sboxRows : Vector (BitVec 128) 16 := #v[
  0x637c777bf26b6fc53001672bfed7ab76#128,
  0xca82c97dfa5947f0add4a2af9ca472c0#128,
  0xb7fd9326363ff7cc34a5e5f171d83115#128,
  0x04c723c31896059a071280e2eb27b275#128,
  0x09832c1a1b6e5aa0523bd6b329e32f84#128,
  0x53d100ed20fcb15b6acbbe394a4c58cf#128,
  0xd0efaafb434d338545f9027f503c9fa8#128,
  0x51a3408f929d38f5bcb6da2110fff3d2#128,
  0xcd0c13ec5f974417c4a77e3d645d1973#128,
  0x60814fdc222a908846eeb814de5e0bdb#128,
  0xe0323a0a4906245cc2d3ac629195e479#128,
  0xe7c8376d8dd54ea96c56f4ea657aae08#128,
  0xba78252e1ca6b4c6e8dd741f4bbd8b8a#128,
  0x703eb5664803f60e613557b986c11d9e#128,
  0xe1f8981169d98e949b1e87e9ce5528df#128,
  0x8ca1890dbfe6426841992d0fb054bb16#128]

/-- The inverse table (R113). -/
def invSboxRows : Vector (BitVec 128) 16 := #v[
  0x52096ad53036a538bf40a39e81f3d7fb#128,
  0x7ce339829b2fff87348e4344c4dee9cb#128,
  0x547b9432a6c2233dee4c950b42fac34e#128,
  0x082ea16628d924b2765ba2496d8bd125#128,
  0x72f8f66486689816d4a45ccc5d65b692#128,
  0x6c704850fdedb9da5e154657a78d9d84#128,
  0x90d8ab008cbcd30af7e45805b8b34506#128,
  0xd02c1e8fca3f0f02c1afbd0301138a6b#128,
  0x3a9111414f67dcea97f2cfcef0b4e673#128,
  0x96ac7422e7ad3585e2f937e81c75df6e#128,
  0x47f11a711d29c5896fb7620eaa18be1b#128,
  0xfc563e4bc6d279209adbc0fe78cd5af4#128,
  0x1fdda8338807c731b11210592780ec5f#128,
  0x60517fa919b54a0d2de57a9f93c99cef#128,
  0xa0e03b4dae2af5b0c8ebbb3c83539961#128,
  0x172b047eba77d626e169146355210c7d#128]

/-- SBOX(a) = MemRead(SBOX, a, 1) (R110). -/
def sbox (a : Byte) : Byte := romEntry sboxRows a

/-- INVSBOX(a) = MemRead(INVSBOX, a, 1) (R111). -/
def invSbox (a : Byte) : Byte := romEntry invSboxRows a

/-- The entries RCON[1..10] (R132). -/
def rconTable : Vector Byte 10 :=
  #v[0x01#8, 0x02#8, 0x04#8, 0x08#8, 0x10#8, 0x20#8, 0x40#8, 0x80#8, 0x1b#8, 0x36#8]

/-- RCON(j), a function on 1..10 only (R132, D20, C1). -/
def rcon (j : Nat) (h : 1 ≤ j ∧ j ≤ 10) : Byte := rconTable[j - 1]

end Sys2Proof.Machine
end

