-- ==== Sys2Proof/Machine/FunctionUnits.lean ====
section
/-!
DEFINITION. The seven function units (FN rows): pure functions of their operands that write no register, raise nothing
and set no flag (spec/00_scope.md R13; R110, R111, R120, R121, R130-R132). A unit's result is what it drives on its
result bus (R84; log 5).
-/
namespace Sys2Proof.Machine

/-- ROTWORD(w) = (w[1], w[2], w[3], w[0]): rotate left by one byte (R130). -/
def rotWord (w : Word) : Word := #v[w[1], w[2], w[3], w[0]]

/-- SUBWORD(w): SBOX on each byte, always the forward one (R131). -/
def subWord (w : Word) : Word := tabulate fun j => sbox w[j]

/-- SBOX (R110). -/
def execSbox (a : Byte) (s : State) : Host.Outcome State Fault Refusal :=
  .next (driveFn (.byte (sbox a)) s)

/-- INVSBOX (R111). -/
def execInvsbox (a : Byte) (s : State) : Host.Outcome State Fault Refusal :=
  .next (driveFn (.byte (invSbox a)) s)

/-- XTIME (R120). -/
def execXtime (b : Byte) (s : State) : Host.Outcome State Fault Refusal :=
  .next (driveFn (.byte (xtime b)) s)

/-- GMUL (R121). -/
def execGmul (a b : Byte) (s : State) : Host.Outcome State Fault Refusal :=
  .next (driveFn (.byte (gmul a b)) s)

/-- ROTWORD of w = (a, b, c, d) (R130). -/
def execRotword (a b c d : Byte) (s : State) : Host.Outcome State Fault Refusal :=
  .next (driveFn (.word (rotWord #v[a, b, c, d])) s)

/-- SUBWORD of w = (a, b, c, d) (R131). -/
def execSubword (a b c d : Byte) (s : State) : Host.Outcome State Fault Refusal :=
  .next (driveFn (.word (subWord #v[a, b, c, d])) s)

/-- RCON(j), defined for j = 1..10 only; any other index is refused (R132, R88, U4). -/
def execRcon (j : BitVec 4) (s : State) : Host.Outcome State Fault Refusal :=
  if h : 1 ≤ j.toNat ∧ j.toNat ≤ 10 then .next (driveFn (.byte (rcon j.toNat h)) s)
  else .refused (.rconIndex j)

end Sys2Proof.Machine
end

