-- ==== Sys2Proof/Machine/RoundTransforms.lean ====
section
/-!
DEFINITION. The seven round transforms: each as a pure function on 16-byte vectors, then as a uop, which besides
performs UPC <- UPC + 1 (spec/43_round_transforms.md R150-R156). Every byte is computed from the State at the start of
the step.
-/
namespace Sys2Proof.Machine

/-- The State whose byte in row `r`, column `c` is `f r c` (R11). -/
def fromCells (f : (r c : Nat) → Byte) : Block := tabulate fun k => f (k.val % 4) (k.val / 4)

/-- SubBytes (R150). -/
def subBytes (s : Block) : Block := fromCells fun r c => sbox (cell s r c)

/-- InvSubBytes (R151). -/
def invSubBytes (s : Block) : Block := fromCells fun r c => invSbox (cell s r c)

/-- ShiftRows: s'[r][c] <- s[r][(c + r) mod 4] (R152). -/
def shiftRows (s : Block) : Block := fromCells fun r c => cell s r (c + r)

/-- InvShiftRows: s'[r][c] <- s[r][(c - r) mod 4], 4 added before reducing (R9, R153). -/
def invShiftRows (s : Block) : Block := fromCells fun r c => cell s r (c + 4 - r)

/-- MixColumns: {02} a_r ^ {03} a_(r+1) ^ a_(r+2) ^ a_(r+3), with {02} a = XTIME(a) and {03} a = XTIME(a) ^ a (R154).
The direction in which the coefficient row rotates is the spec's (G2; log 15). -/
def mixColumns (s : Block) : Block :=
  fromCells fun r c =>
    xtime (cell s r c) ^^^ (xtime (cell s (r + 1) c) ^^^ cell s (r + 1) c) ^^^ cell s (r + 2) c ^^^ cell s (r + 3) c

/-- InvMixColumns: {0e} a_r ^ {0b} a_(r+1) ^ {0d} a_(r+2) ^ {09} a_(r+3) (R155). -/
def invMixColumns (s : Block) : Block :=
  fromCells fun r c =>
    gmul (cell s r c) 0x0e#8 ^^^ gmul (cell s (r + 1) c) 0x0b#8 ^^^ gmul (cell s (r + 2) c) 0x0d#8
      ^^^ gmul (cell s (r + 3) c) 0x09#8

/-- AddRoundKey with the slice `rk` of the schedule (R156). -/
def addRoundKey (s rk : Block) : Block := tabulate fun k => s[k] ^^^ rk[k]

/-- SUBBYTES (R150). -/
def execSubbytes (s : State) : Host.Outcome State Fault Refusal :=
  .next (putState (subBytes s.state) s)

/-- INVSUBBYTES (R151). -/
def execInvsubbytes (s : State) : Host.Outcome State Fault Refusal :=
  .next (putState (invSubBytes s.state) s)

/-- SHIFTROWS (R152). -/
def execShiftrows (s : State) : Host.Outcome State Fault Refusal :=
  .next (putState (shiftRows s.state) s)

/-- INVSHIFTROWS (R153). -/
def execInvshiftrows (s : State) : Host.Outcome State Fault Refusal :=
  .next (putState (invShiftRows s.state) s)

/-- MIXCOLUMNS (R154). -/
def execMixcolumns (s : State) : Host.Outcome State Fault Refusal :=
  .next (putState (mixColumns s.state) s)

/-- INVMIXCOLUMNS (R155). -/
def execInvmixcolumns (s : State) : Host.Outcome State Fault Refusal :=
  .next (putState (invMixColumns s.state) s)

/-- ADDROUNDKEY round, for 0 ≤ round ≤ NR: the words W[4 round .. 4 round + 3] are XORed into the State (R156). A round
above NR, or above the 14 that W holds, has no meaning (R88; log 8). -/
def execAddroundkey (round : BitVec 4) (s : State) : Host.Outcome State Fault Refusal :=
  if h : round.toNat ≤ s.nr.toNat ∧ round.toNat ≤ 14 then
    .next (putState (addRoundKey s.state (roundKey s.w round.toNat (by omega))) s)
  else .refused .argumentOutOfRange

end Sys2Proof.Machine
end

