-- ==== Sys2Proof/Machine/Driver.lean ====
section
/-!
DEFINITION. The cipher driver: LOADSTATE and STORESTATE, the two micro-programs, and the cipher and inverse cipher as
functions on data (spec/44_cipher_driver.md R170-R173).
-/
namespace Sys2Proof.Machine

/-- LOADSTATE: s'[r][c] <- BLK[r + 4c], column-major (R170). -/
def execLoadstate (s : State) : Host.Outcome State Fault Refusal :=
  .next (putState (fromCells fun r c => cell s.blk r c) s)

/-- STORESTATE: OUT[r + 4c] <- s[r][c], PHASE <- DONE (R171). -/
def execStorestate (s : State) : Host.Outcome State Fault Refusal :=
  .next (putOut s)

/-- The values NR has during RUN (R26, R172). -/
def legalRounds (nr : Nat) : Bool := nr == 10 || nr == 12 || nr == 14

/-- uop_enc(NR, upc): the uop of the encryption sequence at a position; none outside 0..4 NR + 1 (R172). -/
def uopEnc (nr upc : Nat) : Option Instr :=
  if !legalRounds nr then none
  else if upc = 0 then some .loadstate
  else if upc = 1 then some (.addroundkey 0#4)
  else if upc ≤ 4 * nr - 3 then
    let r := (upc - 2) / 4 + 1
    let j := (upc - 2) % 4
    if j = 0 then some .subbytes
    else if j = 1 then some .shiftrows
    else if j = 2 then some .mixcolumns
    else some (.addroundkey (BitVec.ofNat 4 r))
  else if upc = 4 * nr - 2 then some .subbytes
  else if upc = 4 * nr - 1 then some .shiftrows
  else if upc = 4 * nr then some (.addroundkey (BitVec.ofNat 4 nr))
  else if upc = 4 * nr + 1 then some .storestate
  else none

/-- uop_dec(NR, upc): the uop of the decryption sequence at a position; none outside 0..4 NR + 1 (R173). -/
def uopDec (nr upc : Nat) : Option Instr :=
  if !legalRounds nr then none
  else if upc = 0 then some .loadstate
  else if upc = 1 then some (.addroundkey (BitVec.ofNat 4 nr))
  else if upc ≤ 4 * nr - 3 then
    let r := nr - 1 - (upc - 2) / 4
    let j := (upc - 2) % 4
    if j = 0 then some .invshiftrows
    else if j = 1 then some .invsubbytes
    else if j = 2 then some (.addroundkey (BitVec.ofNat 4 r))
    else some .invmixcolumns
  else if upc = 4 * nr - 2 then some .invshiftrows
  else if upc = 4 * nr - 1 then some .invsubbytes
  else if upc = 4 * nr then some (.addroundkey 0#4)
  else if upc = 4 * nr + 1 then some .storestate
  else none

/-- The State after the first `m` main rounds of encryption, rounds 1 to m in turn (R172). -/
def encRounds {n : Nat} (w : Vector Word n) : (m : Nat) → 4 * m + 3 < n → Block → Block
  | 0, _, s => s
  | m + 1, h, s =>
    addRoundKey (mixColumns (shiftRows (subBytes (encRounds w m (by omega) s)))) (roundKey w (m + 1) h)

/-- Cipher(block, W, NR) (R172). -/
def cipher {n : Nat} (block : Block) (w : Vector Word n) (nr : Nat) (h : 4 * nr + 3 < n) : Block :=
  let s0 := addRoundKey block (roundKey w 0 (by omega))
  let s1 := encRounds w (nr - 1) (by omega) s0
  addRoundKey (shiftRows (subBytes s1)) (roundKey w nr h)

/-- The State after the first `m` main rounds of decryption, rounds NR - 1 down to NR - m in turn (R173). -/
def decRounds {n : Nat} (w : Vector Word n) (nr : Nat) (h : 4 * nr + 3 < n) : (m : Nat) → Block → Block
  | 0, s => s
  | m + 1, s =>
    invMixColumns
      (addRoundKey (invSubBytes (invShiftRows (decRounds w nr h m s))) (roundKey w (nr - (m + 1)) (by omega)))

/-- InvCipher(block, W, NR) (R173). -/
def invCipher {n : Nat} (block : Block) (w : Vector Word n) (nr : Nat) (h : 4 * nr + 3 < n) : Block :=
  let s0 := addRoundKey block (roundKey w nr h)
  let s1 := decRounds w nr h (nr - 1) s0
  addRoundKey (invSubBytes (invShiftRows s1)) (roundKey w 0 (by omega))

end Sys2Proof.Machine
end

