-- ==== Sys2Proof/Machine/KeyExpansion.lean ====
section
/-!
DEFINITION. The key-expansion pipeline: the per-word transform, the uops KEXP.COPY and KEXP.WORD, and the whole
expansion as a function of the key (spec/42_key_expansion.md R134-R137).
-/
namespace Sys2Proof.Machine

/-- The round constants a key size uses are inside RCON's range: i div Nk is 1..10 (R58 c, R133). -/
theorem rcon_index_legal (k : KeySize) (i : Nat) (h : k.words ≤ i ∧ i < k.scheduleWords) :
    1 ≤ i / k.words ∧ i / k.words ≤ 10 := by
  cases k <;> simp only [KeySize.words, KeySize.scheduleWords, KeySize.rounds] at h ⊢ <;> omega

/-- T(i, Nk, t0): RotWord, SubWord, then the round constant into the first byte when i mod Nk = 0; SubWord alone when
Nk > 6 and i mod Nk = 4; else nothing (R134). -/
def transform (k : KeySize) (i : Nat) (h : k.words ≤ i ∧ i < k.scheduleWords) (t0 : Word) : Word :=
  if i % k.words = 0 then
    let t1 := subWord (rotWord t0)
    #v[t1[0] ^^^ rcon (i / k.words) (rcon_index_legal k i h), t1[1], t1[2], t1[3]]
  else if 6 < k.words ∧ i % k.words = 4 then subWord t0
  else t0

/-- The words of KEY and W a key size uses are inside the stores (R57, R58 a, b). -/
theorem schedule_bounds (k : KeySize) : 4 ≤ k.words ∧ k.words ≤ 8 ∧ k.scheduleWords ≤ 60 := by
  cases k <;> decide

/-- KEXP.COPY i, for i < NK: W[i] <- KEY[4i..4i+3], KIDX <- KIDX + 1 (R135). An index outside the range that NK gives
it has no meaning (R88; log 8). -/
def execKexpCopy (i : BitVec 6) (s : State) : Host.Outcome State Fault Refusal :=
  match keySizeOf s.nk s.nr with
  | none => .refused .argumentOutOfRange
  | some k =>
    if h : i.toNat < k.words then
      have hk := schedule_bounds k
      .next (putWord i.toNat (by omega) (keyWord s.key i.toNat (by omega)) s)
    else .refused .argumentOutOfRange

/-- KEXP.WORD i, for NK ≤ i < 4(NR+1): W[i] <- W[i-NK] ^ T(i, NK, W[i-1]), KIDX <- KIDX + 1, and after the last word
PHASE <- RUN, UPC <- 0 (R136). An index outside that range has no meaning (R88; log 8). -/
def execKexpWord (i : BitVec 6) (s : State) : Host.Outcome State Fault Refusal :=
  match keySizeOf s.nk s.nr with
  | none => .refused .argumentOutOfRange
  | some k =>
    if h : k.words ≤ i.toNat ∧ i.toNat < k.scheduleWords then
      have hk := schedule_bounds k
      let t := transform k i.toNat h (s.w[i.toNat - 1]'(by omega))
      let s' := putWord i.toNat (by omega) (xorWord (s.w[i.toNat - k.words]'(by omega)) t) s
      .next (if i.toNat = k.scheduleWords - 1 then beginRun s' else s')
    else .refused .argumentOutOfRange

/-- The first `n` words of KeyExpand(key, Nk, Nr) (R137). -/
def expandWords (k : KeySize) (key : KeyBytes) : (n : Nat) → n ≤ k.scheduleWords → Vector Word n
  | 0, _ => #v[]
  | n + 1, h =>
    have hk := schedule_bounds k
    let p := expandWords k key n (by omega)
    p.push <|
      if hn : n < k.words then keyWord key n (by omega)
      else xorWord (p[n - k.words]'(by omega)) (transform k n (by omega) (p[n - 1]'(by omega)))

/-- KeyExpand(key, Nk, Nr): all 4(Nr+1) words (R137). -/
def keyExpand (k : KeySize) (key : KeyBytes) : Vector Word k.scheduleWords :=
  expandWords k key k.scheduleWords (Nat.le_refl _)

end Sys2Proof.Machine
end

