-- ==== Sys2Proof/Machine/Commands.lean ====
section
/-!
DEFINITION. The command interface: the ACCEPT step, the eight command rows, and the meaning of a whole command as one
function (spec/45_command_api.md R201, R202, R205-R213). A command's own step is ACCEPT; the steps after it run the
uops of R91 by the sequencer (R203; log 6).
-/
namespace Sys2Proof.Machine

/-- ACCEPT of a command (R201). In IDLE the command is latched, and then either the key expansion begins or
InvalidKeySize is taken (R202). While PHASE is not IDLE a command is not accepted and has no effect (R201, R256). -/
def accept (op : Op) (ksb : Ksb) (s : State) : State :=
  match s.phase with
  | .idle =>
    match decodeKsb ksb with
    | some k => beginKexp k (latchCommand op ksb s)
    | none => raiseInvalidKeySize (latchCommand op ksb s)
  | .kexp => s
  | .run => s
  | .done => s

/-- ENCRYPT.128 (R208). -/
def execEncrypt128 (s : State) : Host.Outcome State Fault Refusal := .next (accept .encrypt 128 s)

/-- ENCRYPT.192 (R209). -/
def execEncrypt192 (s : State) : Host.Outcome State Fault Refusal := .next (accept .encrypt 192 s)

/-- ENCRYPT.256 (R210). -/
def execEncrypt256 (s : State) : Host.Outcome State Fault Refusal := .next (accept .encrypt 256 s)

/-- DECRYPT.128 (R211). -/
def execDecrypt128 (s : State) : Host.Outcome State Fault Refusal := .next (accept .decrypt 128 s)

/-- DECRYPT.192 (R212). -/
def execDecrypt192 (s : State) : Host.Outcome State Fault Refusal := .next (accept .decrypt 192 s)

/-- DECRYPT.256 (R213). -/
def execDecrypt256 (s : State) : Host.Outcome State Fault Refusal := .next (accept .decrypt 256 s)

/-- ENCRYPT with `ksb` as a field (R206). -/
def execEncrypt (ksb : Ksb) (s : State) : Host.Outcome State Fault Refusal := .next (accept .encrypt ksb s)

/-- DECRYPT with `ksb` as a field (R207). -/
def execDecrypt (ksb : Ksb) (s : State) : Host.Outcome State Fault Refusal := .next (accept .decrypt ksb s)

/-- The last round's key is inside the schedule: 4 Nr + 3 < 4 (Nr + 1) (R58 d). -/
theorem last_round_key_in_schedule (k : KeySize) : 4 * k.rounds + 3 < k.scheduleWords := by
  simp only [KeySize.scheduleWords]; omega

/-- What a command of a recognised key size computes (R205). -/
def transformBlock (op : Op) (k : KeySize) (key : KeyBytes) (block : Block) : Block :=
  let w := keyExpand k key
  match op with
  | .encrypt => cipher block w k.rounds (last_round_key_in_schedule k)
  | .decrypt => invCipher block w k.rounds (last_round_key_in_schedule k)

/-- Command(op, ksb, key, block), the response to a command as a function of its four values (R205). -/
def command (op : Op) (ksb : Ksb) (key : KeyBytes) (block : Block) : Response :=
  match decodeKsb ksb with
  | none => .invalidKeySize
  | some k => .ok (transformBlock op k key block)

end Sys2Proof.Machine
end

