-- ==== Sys2Proof/Machine/Dispatch.lean ====
section
/-!
DEFINITION. The dispatch: one arm per constructor of `Instr`, each a direct call of that instruction's meaning.
-/
namespace Sys2Proof.Machine

def exec (i : Instr) (s : State) : Host.Outcome State Fault Refusal :=
  match i with
  | .sbox a => Sys2Proof.Machine.execSbox a s
  | .invsbox a => Sys2Proof.Machine.execInvsbox a s
  | .xtime b => Sys2Proof.Machine.execXtime b s
  | .gmul a b => Sys2Proof.Machine.execGmul a b s
  | .rotword a b c d => Sys2Proof.Machine.execRotword a b c d s
  | .subword a b c d => Sys2Proof.Machine.execSubword a b c d s
  | .rcon j => Sys2Proof.Machine.execRcon j s
  | .loadstate => Sys2Proof.Machine.execLoadstate s
  | .storestate => Sys2Proof.Machine.execStorestate s
  | .addroundkey round => Sys2Proof.Machine.execAddroundkey round s
  | .subbytes => Sys2Proof.Machine.execSubbytes s
  | .shiftrows => Sys2Proof.Machine.execShiftrows s
  | .mixcolumns => Sys2Proof.Machine.execMixcolumns s
  | .invsubbytes => Sys2Proof.Machine.execInvsubbytes s
  | .invshiftrows => Sys2Proof.Machine.execInvshiftrows s
  | .invmixcolumns => Sys2Proof.Machine.execInvmixcolumns s
  | .kexpCopy idx => Sys2Proof.Machine.execKexpCopy idx s
  | .kexpWord idx => Sys2Proof.Machine.execKexpWord idx s
  | .encrypt128 => Sys2Proof.Machine.execEncrypt128 s
  | .encrypt192 => Sys2Proof.Machine.execEncrypt192 s
  | .encrypt256 => Sys2Proof.Machine.execEncrypt256 s
  | .decrypt128 => Sys2Proof.Machine.execDecrypt128 s
  | .decrypt192 => Sys2Proof.Machine.execDecrypt192 s
  | .decrypt256 => Sys2Proof.Machine.execDecrypt256 s
  | .encrypt ksb => Sys2Proof.Machine.execEncrypt ksb s
  | .decrypt ksb => Sys2Proof.Machine.execDecrypt ksb s

end Sys2Proof.Machine
end

