-- ==== Sys2Proof/Machine/Sequencer.lean ====
section
/-!
DEFINITION. What the core does at a step: the sequencer (PHASE, KIDX, UPC) in place of a program counter
(spec/10_state.md R27, R33; spec/30_encoding.md R83; spec/44_cipher_driver.md R174; spec/45_command_api.md R201, R204;
spec/70_reset_and_hazards.md R250); and how an encoded instruction is placed so that the next step runs it (log 13).
-/
namespace Sys2Proof.Machine

/-- What one step does. -/
inductive Action where
  /-- the RESET step (R250) -/
  | reset
  /-- run the encoded instruction presented: a command on the port, the sequencer's uop, a function unit's operand -/
  | run (e : Encoded)
  /-- the RESPOND step (R204) -/
  | respond
  /-- nothing is enabled: IDLE without a command, DONE without a ready host (R201, R204; log 18) -/
  | wait
  /-- PHASE = RUN outside both micro-programs, which no run reaches (log 10) -/
  | lost
  deriving DecidableEq, Repr

/-- The uop of PHASE = KEXP: KEXP.COPY KIDX while KIDX < NK, else KEXP.WORD KIDX (R83, R139). -/
def kexpUop (s : State) : Instr :=
  if s.kidx.toNat < s.nk.toNat then .kexpCopy s.kidx else .kexpWord s.kidx

/-- The uop of PHASE = RUN: uop_enc or uop_dec at (NR, UPC), by OP (R83, R174). -/
def runUop (s : State) : Option Instr :=
  match s.op with
  | .encrypt => uopEnc s.nr.toNat s.upc.toNat
  | .decrypt => uopDec s.nr.toNat s.upc.toNat

/-- The one step enabled (R203): reset first (R223, R250); then an operand on a function unit's bus (log 5); then what
PHASE says (R27). -/
def action (s : State) : Action :=
  if s.pins.rst then .reset
  else
    match s.fnIn with
    | some bus => .run (.fn bus)
    | none =>
      match s.phase with
      | .idle => if s.pins.cmdValid then .run (cmdWord s.ksbW s.pins.cmdOp s.pins.cmdKsb) else .wait
      | .kexp => .run (encode s.ksbW (kexpUop s))
      | .run =>
        match runUop s with
        | some u => .run (encode s.ksbW u)
        | none => .lost
      | .done => if s.pins.rspReady then .respond else .wait

/-- What surrounds an instruction that completed: the operand taken from a function unit's bus is gone, and the host
has its turn (log 3, 5). -/
def afterRun (o : Host.Outcome State Fault Refusal) : Host.Outcome State Fault Refusal :=
  match o with
  | .next t => .next (hostTurn (clearFn t))
  | .fault f => .fault f
  | .refused r => .refused r

/-! ### Placing an encoded instruction (log 13) -/

/-- The sequencer at position `upc` of the micro-program of `op`, AES-256. -/
def placeRun (op : Op) (upc : Nat) (s : State) : State :=
  { s with op := op, nk := 8#4, nr := 14#4, phase := .run, upc := BitVec.ofNat 6 upc }

/-- The sequencer in KEXP at word `i`, with the key size of `k`. -/
def placeKexp (k : KeySize) (i : BitVec 6) (s : State) : State :=
  { s with nk := BitVec.ofNat 4 k.words, nr := BitVec.ofNat 4 k.rounds, phase := .kexp, kidx := i }

/-- The position of ADDROUNDKEY `round` in the AES-256 encryption sequence (R172). -/
def roundKeyUpc (round : Nat) : Nat :=
  if round = 14 then 56 else 4 * round + 1

/-- The sequencer placed where it issues the uop `i`; nothing for what is no uop. -/
def placeUop (i : Instr) (s : State) : State :=
  match i with
  | .loadstate => placeRun .encrypt 0 s
  | .storestate => placeRun .encrypt 57 s
  | .addroundkey round => placeRun .encrypt (roundKeyUpc round.toNat) s
  | .subbytes => placeRun .encrypt 2 s
  | .shiftrows => placeRun .encrypt 3 s
  | .mixcolumns => placeRun .encrypt 4 s
  | .invshiftrows => placeRun .decrypt 2 s
  | .invsubbytes => placeRun .decrypt 3 s
  | .invmixcolumns => placeRun .decrypt 5 s
  | .kexpCopy i => placeKexp .aes256 i s
  | .kexpWord i => placeKexp (if i.toNat < 8 then .aes128 else .aes256) i s
  | .sbox _ => s
  | .invsbox _ => s
  | .xtime _ => s
  | .gmul _ _ => s
  | .rotword _ _ _ _ => s
  | .subword _ _ _ _ => s
  | .rcon _ => s
  | .encrypt128 => s
  | .encrypt192 => s
  | .encrypt256 => s
  | .decrypt128 => s
  | .decrypt192 => s
  | .decrypt256 => s
  | .encrypt _ => s
  | .decrypt _ => s

/-- No reset request and nothing on a function unit's bus, so that PHASE decides the step. -/
def undisturbed (s : State) : State :=
  { s with pins := { s.pins with rst := false }, fnIn := none }

/-- `s` with the encoded instruction where the next step takes it from: a command on the command port, of the word's
width, of an idle core; a uop at a position of the sequencer that issues it; an operand on the bus of its function
unit. -/
def place (e : Encoded) (s : State) : State :=
  match e with
  | .cmd w word =>
    { undisturbed s with
      ksbW := w
      phase := .idle
      pins := { s.pins with rst := false, cmdValid := true, cmdOp := cmdOpBit word, cmdKsb := cmdKsbField word } }
  | .uop word =>
    match decodeUop word with
    | .ok i => placeUop i (undisturbed s)
    | .error _ => s
  | .fn bus => { undisturbed s with fnIn := some bus }

/-- The same, for bits numbered as the opcode table numbers them. -/
def placeTableWord (s : State) (nbits w : Nat) : State :=
  match tableWord nbits w with
  | some e => place e s
  | none => s

end Sys2Proof.Machine
end

