-- ==== Sys2Proof/Machine/Step.lean ====
section
/-!
DEFINITION. One step of the core (spec/00_scope.md R12, R15; spec/45_command_api.md R203): the action the sequencer
and the wires call for, then the host's turn.
-/
namespace Sys2Proof.Machine

/-- One step. Where an instruction is presented, the step decodes it and runs `exec` of it. -/
def step (s : State) : Host.Outcome State Fault Refusal :=
  match action s with
  | .reset => .next (hostTurn (resetRegisters s))
  | .respond => .next (hostTurn (respond s))
  | .wait => .next (hostTurn s)
  | .lost => .fault .noUop
  | .run e =>
    match decode e with
    | .ok i => afterRun (exec i s)
    | .error r => .refused (.illegalWord r)

/-- `s` with an instruction of the opcode table placed where `step` takes its next instruction from (log 13). -/
def State.withFetchWord (s : State) (nbits w : Nat) : State := placeTableWord s nbits w

end Sys2Proof.Machine
end

