-- ==== Sys2Proof/Laws/Bits.lean ====
section
/-!
SUPPORT. Taking a bit string apart where it was put together: the two fields of a concatenation.
-/
namespace Sys2Proof

/-- The high field of `a ‖ b`. -/
theorem extract_high {n m : Nat} (a : BitVec n) (b : BitVec m) : (a ++ b).extractLsb' m n = a := by
  ext i hi
  simp only [BitVec.getElem_extractLsb', BitVec.getLsbD_append]
  rw [if_neg (by omega), Nat.add_sub_cancel_left, BitVec.getLsbD_eq_getElem hi]

/-- The low field of `a ‖ b`. -/
theorem extract_low {n m : Nat} (a : BitVec n) (b : BitVec m) : (a ++ b).extractLsb' 0 m = b := by
  ext i hi
  simp only [BitVec.getElem_extractLsb', BitVec.getLsbD_append, Nat.zero_add]
  rw [if_pos hi, BitVec.getLsbD_eq_getElem hi]

/-- Concatenation loses nothing. -/
theorem append_inj {n m : Nat} (a a' : BitVec n) (b b' : BitVec m) : a ++ b = a' ++ b' ↔ a = a' ∧ b = b' := by
  constructor
  · intro h
    have hi := congrArg (BitVec.extractLsb' m n) h
    have lo := congrArg (BitVec.extractLsb' 0 m) h
    rw [extract_high, extract_high] at hi
    rw [extract_low, extract_low] at lo
    exact ⟨hi, lo⟩
  · rintro ⟨rfl, rfl⟩; rfl

/-- A bit is 0 or 1. -/
theorem bit_cases (b : BitVec 1) : b = 0#1 ∨ b = 1#1 := by
  revert b; decide

end Sys2Proof
end

