-- ==== Sys2Proof/Laws/Exec.lean ====
section
/-!
SUPPORT. What a command word, a uop word and a step can do, said once each.
-/
namespace Sys2Proof.Machine

/-- ACCEPT of a recognised key size in IDLE (R201). -/
theorem accept_valid {s : State} (hp : s.phase = .idle) (op : Op) {ksb : Ksb} {k : KeySize}
    (hk : decodeKsb ksb = some k) : accept op ksb s = beginKexp k (latchCommand op ksb s) := by
  simp [accept, hp, hk]

/-- ACCEPT of any other key size in IDLE (R202). -/
theorem accept_invalid {s : State} (hp : s.phase = .idle) (op : Op) {ksb : Ksb} (hk : decodeKsb ksb = none) :
    accept op ksb s = raiseInvalidKeySize (latchCommand op ksb s) := by
  simp [accept, hp, hk]

/-- A command offered while PHASE is not IDLE has no effect (R256). -/
theorem accept_busy {s : State} (hp : s.phase ≠ .idle) (op : Op) (ksb : Ksb) : accept op ksb s = s := by
  unfold accept; split <;> simp_all

/-- A command word put together from `op` and `ksb` is read as their row, `ksb` cut to the field's width (R81, R86). -/
theorem decodeCmd_append (w : Nat) (op : BitVec 1) (ksb : Ksb) :
    decodeCmd (op ++ BitVec.ofNat w ksb) = cmdRow op (ksb % 2 ^ w) := by
  rw [decodeCmd, cmdOpBit, cmdKsbField, extract_high, extract_low, BitVec.toNat_ofNat]

/-- The word of a command reads as the row of its `op` bit and of its `ksb` cut to the field. -/
theorem decode_cmdWord (w : Nat) (op : BitVec 1) (ksb : Ksb) :
    decode (cmdWord w op ksb) = .ok (cmdRow op (ksb % 2 ^ w)) := by
  rw [cmdWord, decode, decodeCmd_append]

/-- Whatever row a command is, running it is ACCEPT of its `op` bit and its `ksb` (R81, R86). -/
theorem exec_cmdRow (op : BitVec 1) (ksb : Ksb) (s : State) :
    exec (cmdRow op ksb) s = .next (accept (opOfCode op) ksb s) := by
  unfold cmdRow opOfCode
  (repeat' split) <;> simp_all [exec, execEncrypt128, execEncrypt192, execEncrypt256, execDecrypt128, execDecrypt192,
    execDecrypt256, execEncrypt, execDecrypt]

/-- What the port presents in IDLE runs as ACCEPT of the port's values (R81, R201). -/
theorem exec_decode_port (s : State) :
    exec (decodeCmd (s.pins.cmdOp ++ BitVec.ofNat s.ksbW s.pins.cmdKsb)) s =
      .next (accept (opOfCode s.pins.cmdOp) (portKsb s) s) := by
  rw [decodeCmd_append, exec_cmdRow, portKsb]

/-- The sequencer's own uops read back as themselves whenever the decoder accepts them. -/
theorem decode_uopWord {usel : BitVec 4} {arg : BitVec 6} :
    decode (uopWord usel arg) = decodeUopFields usel arg := by
  have h1 : (usel ++ arg : BitVec 10).extractLsb' 6 4 = usel := extract_high usel arg
  have h2 : (usel ++ arg : BitVec 10).extractLsb' 0 6 = arg := extract_low usel arg
  simp only [decode, uopWord, decodeUop, h1, h2]

end Sys2Proof.Machine
end

