-- ==== Sys2Proof/Laws/PerInstr.lean ====
section
/-!
SUPPORT. The family `IllFormed`: the word of an ill-formed term is never read as that term. A generic command with a
recognised key size reads as the exact row (R86); an argument out of range reads as nothing (R88); a keySizeBits that
the field cannot hold reads as another one (R81).
-/
namespace Sys2Proof.Laws.IllFormed

open Sys2Proof Sys2Proof.Machine

/-- On a core of any KSB_W, the decoder does not answer an ill-formed term for that term's word. -/
def Statement (i : Instr) : Prop := ∀ w : Nat, i.wellFormed w = false → decode (encode w i) ≠ .ok i

/-- A command whose keySizeBits the field cannot hold is read with another one. -/
theorem cut_ne {w : Nat} {ksb : Ksb} (h : fitsKsb w ksb = false) : ksb % 2 ^ w ≠ ksb := by
  have hle : 2 ^ w ≤ ksb := by simpa [fitsKsb] using h
  exact Nat.ne_of_lt (Nat.lt_of_lt_of_le (Nat.mod_lt ksb (Nat.two_pow_pos w)) hle)

/-- What a row that names an exact or a generic command says of its `ksb`. -/
theorem cmdRow_ksb {op : BitVec 1} {ksb : Ksb} :
    (cmdRow op ksb = .encrypt128 ∨ cmdRow op ksb = .decrypt128 → ksb = 128) ∧
    (cmdRow op ksb = .encrypt192 ∨ cmdRow op ksb = .decrypt192 → ksb = 192) ∧
    (cmdRow op ksb = .encrypt256 ∨ cmdRow op ksb = .decrypt256 → ksb = 256) ∧
    (∀ k, cmdRow op ksb = .encrypt k ∨ cmdRow op ksb = .decrypt k → ksb = k ∧ recognisedKsb k = false) := by
  unfold cmdRow
  (repeat' split) <;> simp_all [recognisedKsb]

theorem sbox (a : Byte) : Statement (.sbox a) := by intro w h; cases h
theorem invsbox (a : Byte) : Statement (.invsbox a) := by intro w h; cases h
theorem xtime (b : Byte) : Statement (.xtime b) := by intro w h; cases h
theorem gmul (a b : Byte) : Statement (.gmul a b) := by intro w h; cases h
theorem rotword (a b c d : Byte) : Statement (.rotword a b c d) := by intro w h; cases h
theorem subword (a b c d : Byte) : Statement (.subword a b c d) := by intro w h; cases h
theorem rcon (j : BitVec 4) : Statement (.rcon j) := by
  intro w h
  have hj : ¬ (1 ≤ j.toNat ∧ j.toNat ≤ 10) := by simpa [Instr.wellFormed] using h
  simp [encode, decode, decodeFn, hj]
theorem loadstate : Statement .loadstate := by intro w h; cases h
theorem storestate : Statement .storestate := by intro w h; cases h
theorem addroundkey (round : BitVec 4) : Statement (.addroundkey round) := by
  intro w h
  have hr : ¬ (0#2 ++ round : BitVec 6).toNat ≤ 14 := by
    have h14 : ¬ round.toNat ≤ 14 := by simpa [Instr.wellFormed] using h
    clear h
    revert round
    decide
  simp [encode, decode_uopWord, decodeUopFields, hr]
theorem subbytes : Statement .subbytes := by intro w h; cases h
theorem shiftrows : Statement .shiftrows := by intro w h; cases h
theorem mixcolumns : Statement .mixcolumns := by intro w h; cases h
theorem invsubbytes : Statement .invsubbytes := by intro w h; cases h
theorem invshiftrows : Statement .invshiftrows := by intro w h; cases h
theorem invmixcolumns : Statement .invmixcolumns := by intro w h; cases h
theorem kexpCopy (i : BitVec 6) : Statement (.kexpCopy i) := by
  intro w h
  have hi : ¬ i.toNat ≤ 7 := by simpa [Instr.wellFormed] using h
  simp [encode, decode_uopWord, decodeUopFields, hi]
theorem kexpWord (i : BitVec 6) : Statement (.kexpWord i) := by
  intro w h
  have hi : ¬ (4 ≤ i.toNat ∧ i.toNat ≤ 59) := by simpa [Instr.wellFormed] using h
  simp [encode, decode_uopWord, decodeUopFields, hi]
theorem encrypt128 : Statement .encrypt128 := by
  intro w h hd
  rw [encode, decode_cmdWord] at hd
  exact cut_ne h (cmdRow_ksb.1 (.inl (Except.ok.inj hd)))
theorem encrypt192 : Statement .encrypt192 := by
  intro w h hd
  rw [encode, decode_cmdWord] at hd
  exact cut_ne h (cmdRow_ksb.2.1 (.inl (Except.ok.inj hd)))
theorem encrypt256 : Statement .encrypt256 := by
  intro w h hd
  rw [encode, decode_cmdWord] at hd
  exact cut_ne h (cmdRow_ksb.2.2.1 (.inl (Except.ok.inj hd)))
theorem decrypt128 : Statement .decrypt128 := by
  intro w h hd
  rw [encode, decode_cmdWord] at hd
  exact cut_ne h (cmdRow_ksb.1 (.inr (Except.ok.inj hd)))
theorem decrypt192 : Statement .decrypt192 := by
  intro w h hd
  rw [encode, decode_cmdWord] at hd
  exact cut_ne h (cmdRow_ksb.2.1 (.inr (Except.ok.inj hd)))
theorem decrypt256 : Statement .decrypt256 := by
  intro w h hd
  rw [encode, decode_cmdWord] at hd
  exact cut_ne h (cmdRow_ksb.2.2.1 (.inr (Except.ok.inj hd)))
theorem encrypt (ksb : Ksb) : Statement (.encrypt ksb) := by
  intro w h hd
  rw [encode, decode_cmdWord] at hd
  have hc := cmdRow_ksb.2.2.2 ksb (.inl (Except.ok.inj hd))
  rcases Bool.and_eq_false_iff.mp h with hf | hr
  · exact cut_ne hf hc.1
  · simp [hc.2] at hr
theorem decrypt (ksb : Ksb) : Statement (.decrypt ksb) := by
  intro w h hd
  rw [encode, decode_cmdWord] at hd
  have hc := cmdRow_ksb.2.2.2 ksb (.inr (Except.ok.inj hd))
  rcases Bool.and_eq_false_iff.mp h with hf | hr
  · exact cut_ne hf hc.1
  · simp [hc.2] at hr

end Sys2Proof.Laws.IllFormed
end

