-- ==== Sys2Proof/Safety.lean ====
section
/-!
DEFINITION. What counts as a safe run, in the terms the statements use: the invariant of the sequencer
(spec/10_state.md R26, R39; spec/60_exceptions.md R234), a host that leaves a command alone (R203, R250), and the step
counts of spec/44_cipher_driver.md R177. After them, formulas of the spec written out apart from the functions the
machine runs, for statements that compare the two.
-/
namespace Sys2Proof.Machine

/-- The invariant of the sequencer. During KEXP and RUN the registers NK and NR hold the pair of the latched key size,
STATUS is OK and the counter of the phase is inside its range; in DONE, STATUS is what ACCEPT wrote for the latched
key size (R26, R28, R29, R30, R39 a). -/
def SequencerInv (s : State) : Prop :=
  match s.phase with
  | .idle => True
  | .kexp =>
    ∃ k, keySizeOf s.nk s.nr = some k ∧ decodeKsb s.ksb = some k ∧ s.status = .ok ∧
      s.kidx.toNat < k.scheduleWords
  | .run =>
    ∃ k, keySizeOf s.nk s.nr = some k ∧ decodeKsb s.ksb = some k ∧ s.status = .ok ∧
      s.upc.toNat ≤ 4 * k.rounds + 1
  | .done => s.status = statusOf s.ksb ∧ ∀ k, decodeKsb s.ksb = some k → keySizeOf s.nk s.nr = some k

/-- `KSB` holds a pattern of KSB_W bits (R20, D5). -/
def KsbFits (s : State) : Prop := s.ksb < 2 ^ s.ksbW

/-- The host asserts no reset, now or at the coming steps. -/
def NoReset (s : State) : Prop :=
  s.pins.rst = false ∧ ∀ p ∈ s.plan, p.rst = false

/-- What stands on a function unit's bus, if anything, has a meaning (R84, R132). -/
def FnLegal (s : State) : Prop :=
  ∀ bus, s.fnIn = some bus → ∃ i, decodeFn bus = .ok i

/-- How many steps of its own the core has left before DONE (R177). -/
def remaining (s : State) : Nat :=
  match s.phase with
  | .idle => 0
  | .kexp => (4 * (s.nr.toNat + 1) - s.kidx.toNat) + (4 * s.nr.toNat + 2)
  | .run => 4 * s.nr.toNat + 2 - s.upc.toNat
  | .done => 0

/-- How many steps a command takes from its ACCEPT to DONE: 1 ACCEPT, 4(Nr+1) KEXP and 4 Nr + 2 RUN steps, or the
ACCEPT alone when the key size is invalid (R177). -/
def stepsToDone (ksb : Ksb) : Nat :=
  match decodeKsb ksb with
  | some k => 1 + k.scheduleWords + (4 * k.rounds + 2)
  | none => 1

/-- The response offered, if one is (R34, R85). -/
def offered (s : State) : Option Response :=
  if rspValid s then some (responseOf s.status s.out) else none

/-! ### Formulas of the spec -/

/-- The affine map Aff of R112: y[i] = x[i] ^ x[(i+4) mod 8] ^ ... ^ x[(i+7) mod 8] ^ c[i], c = 0x63. -/
def affine (x : Byte) : Byte :=
  x ^^^ x.rotateRight 4 ^^^ x.rotateRight 5 ^^^ x.rotateRight 6 ^^^ x.rotateRight 7 ^^^ 0x63#8

/-- `f` applied `n` times. -/
def times {α : Type} (f : α → α) : Nat → α → α
  | 0, a => a
  | n + 1, a => f (times f n a)

/-- Byte `j` of T(i, NK, t0) (R134), with the round constant as the power x^(i div NK - 1) of R132. -/
def transformByte (nk i : Nat) (t0 : Word) (j : Fin 4) : Byte :=
  if i % nk = 0 then
    sbox t0[(j.val + 1) % 4] ^^^ (if j.val = 0 then times xtime (i / nk - 1) 0x01#8 else 0x00#8)
  else if 6 < nk ∧ i % nk = 4 then sbox t0[j.val]
  else t0[j.val]

/-- Entry (r, c) of the matrix whose row 0 is `row` and whose row r is row 0 rotated right by r places (R154, R155). -/
def circulant (row : Vector Byte 4) (r c : Nat) : Byte := row[(c + 4 - r % 4) % 4]

/-- The product of row `r` of that matrix with a column of the State, in GF(2^8) (R154, R155). -/
def matrixCell (row : Vector Byte 4) (s : Block) (r c : Nat) : Byte :=
  gmul (cell s 0 c) (circulant row r 0) ^^^ gmul (cell s 1 c) (circulant row r 1) ^^^
    gmul (cell s 2 c) (circulant row r 2) ^^^ gmul (cell s 3 c) (circulant row r 3)

/-- The state ACCEPT leaves for a valid key size (R201). -/
def acceptedAs (op : Op) (ksb : Ksb) (nk nr : BitVec 4) (s : State) : State :=
  { s with
    op := op, ksb := ksb, key := busBytes 32 s.pins.cmdKey, blk := busBytes 16 s.pins.cmdBlock,
    nk := nk, nr := nr, status := .ok, kidx := 0#6, phase := .kexp }

/-- The state ACCEPT leaves for an invalid key size (R202). -/
def rejectedAs (op : Op) (ksb : Ksb) (s : State) : State :=
  { s with
    op := op, ksb := ksb, key := busBytes 32 s.pins.cmdKey, blk := busBytes 16 s.pins.cmdBlock,
    status := .invalidKeySize, phase := .done }

/-- The uops of one main round of encryption (R91, ROUND r). -/
def roundUops (r : Nat) : List Instr :=
  [.subbytes, .shiftrows, .mixcolumns, .addroundkey (BitVec.ofNat 4 r)]

/-- The uops of one main round of decryption (R91, INVROUND r). -/
def invRoundUops (r : Nat) : List Instr :=
  [.invshiftrows, .invsubbytes, .addroundkey (BitVec.ofNat 4 r), .invmixcolumns]

/-- The pseudo-op CIPHER (R91). -/
def cipherUops (nr : Nat) : List Instr :=
  [.loadstate, .addroundkey 0#4] ++ (List.range (nr - 1)).flatMap (fun m => roundUops (m + 1)) ++
    [.subbytes, .shiftrows, .addroundkey (BitVec.ofNat 4 nr), .storestate]

/-- The pseudo-op INVCIPHER (R91). -/
def invCipherUops (nr : Nat) : List Instr :=
  [.loadstate, .addroundkey (BitVec.ofNat 4 nr)] ++ (List.range (nr - 1)).flatMap (fun m => invRoundUops (nr - 1 - m)) ++
    [.invshiftrows, .invsubbytes, .addroundkey 0#4, .storestate]

end Sys2Proof.Machine
end

