-- ==== Sys2Proof/Certificates/Slice0/Obligations.lean ====
section
/-!
DEFINITION. The statements for the provers, from the numbered rules of spec/. Where a statement equates a next state
with `{ s with ... }`, the fields not named are its frame: every one of them is as before.
-/

section

open Sys2Proof Sys2Proof.Machine

/-! ### Encoding -/

/-- Words written out bit by bit from R81, R83, R84 and R86 decode to what they stand for; the last command word is
that of a core with KSB_W = 9. -/
def Obligations.DecodeSampleWords : Prop :=
  decode (.uop 0b0000000000#10) = .ok .loadstate ∧ decode (.uop 0b0001000000#10) = .ok .storestate ∧
  decode (.uop 0b0010001010#10) = .ok (.addroundkey 10#4) ∧ decode (.uop 0b0011000000#10) = .ok .subbytes ∧
  decode (.uop 0b0110000000#10) = .ok .invsubbytes ∧ decode (.uop 0b1001000111#10) = .ok (.kexpCopy 7#6) ∧
  decode (.uop 0b1010101011#10) = .ok (.kexpWord 43#6) ∧ decode (.cmd 32 0x0000000C0#33) = .ok .encrypt192 ∧
  decode (.cmd 32 0x100000100#33) = .ok .decrypt256 ∧ decode (.cmd 32 0x000000064#33) = .ok (.encrypt 100) ∧
  decode (.cmd 32 0x1FFFFFF80#33) = .ok (.decrypt 0xFFFFFF80) ∧ decode (.cmd 9 0b1100000000#10) = .ok .decrypt256 ∧
  decode (.fn (.gmul 0x5713#16)) = .ok (.gmul 0x57#8 0x13#8) ∧
  decode (.fn (.rotword 0x09cf4f3c#32)) = .ok (.rotword 0x09#8 0xcf#8 0x4f#8 0x3c#8)

/-- At every KSB_W, every well-formed instruction decodes from its encoding, with every operand at every value (R7,
R81, R83, R84, R86). -/
def Obligations.DecodeOfEncode : Prop :=
  ∀ (w : Nat) (i : Instr), i.wellFormed w = true → decode (encode w i) = .ok i

/-- At every KSB_W each encoded word has one meaning: what decodes to an instruction is that instruction's encoding,
and the instruction is well formed (R7, R86, R88). -/
def Obligations.EncodeOfDecode : Prop :=
  ∀ (w : Nat) (e : Encoded) (i : Instr), e.hasWidth w = true → decode e = .ok i →
    encode w i = e ∧ i.wellFormed w = true

/-- The words R88 says have no meaning are refused: a reserved usel, a nonzero arg where it must be 0, a round above
14 (so arg[5:4] not 0 as well), a KEXP index no key size has, an RCON index outside 1..10; and no command word is, at
any KSB_W. -/
def Obligations.ReservedWordsRefused : Prop :=
  (∀ (usel : BitVec 4) (arg : BitVec 6),
    (0xB ≤ usel.toNat ∨ ((usel.toNat ≤ 1 ∨ (3 ≤ usel.toNat ∧ usel.toNat ≤ 8)) ∧ arg ≠ 0#6) ∨
      (usel.toNat = 2 ∧ 14 < arg.toNat) ∨ (usel.toNat = 9 ∧ 7 < arg.toNat) ∨
      (usel.toNat = 0xA ∧ (arg.toNat < 4 ∨ 59 < arg.toNat))) →
    ∃ e, decode (.uop (usel ++ arg)) = .error e) ∧
  (∀ j : BitVec 4, (j.toNat = 0 ∨ 10 < j.toNat) → decode (.fn (.rcon j)) = .error (.badRconIndex j)) ∧
  (∀ (w : Nat) (word : BitVec (1 + w)), ∃ i, decode (.cmd w word) = .ok i)

/-- Where the step presents an encoded instruction and the decoder reads it, the step is `exec` of that instruction;
around a next state, the operand of a function unit is taken away and the host has its turn. -/
def Obligations.StepRunsDecoded : Prop :=
  ∀ (s : State) (e : Encoded) (i : Instr), action s = .run e → decode e = .ok i →
    step s = (match exec i s with
      | .next t => .next (hostTurn { t with fnIn := none })
      | .fault f => .fault f
      | .refused r => .refused r)

/-- What a step presents, without reset: the operand on a function unit's bus; in IDLE the command `op ‖ ksb` when
`cmd_valid` is 1; in KEXP the KEXP.COPY or KEXP.WORD of KIDX; in RUN the uop of (OP, NR, UPC) (R83, R139, R174). -/
def Obligations.StepPresents : Prop :=
  ∀ s : State, s.pins.rst = false →
    (∀ bus, s.fnIn = some bus → action s = .run (.fn bus)) ∧
    (s.fnIn = none →
      (s.phase = .idle → s.pins.cmdValid = true →
        action s = .run (.cmd s.ksbW (s.pins.cmdOp ++ BitVec.ofNat s.ksbW s.pins.cmdKsb))) ∧
      (s.phase = .kexp → s.kidx.toNat < s.nk.toNat → action s = .run (.uop (0x9#4 ++ s.kidx))) ∧
      (s.phase = .kexp → s.nk.toNat ≤ s.kidx.toNat → action s = .run (.uop (0xA#4 ++ s.kidx))) ∧
      (∀ u, s.phase = .run → s.op = .encrypt → uopEnc s.nr.toNat s.upc.toNat = some u →
        action s = .run (encode s.ksbW u)) ∧
      (∀ u, s.phase = .run → s.op = .decrypt → uopDec s.nr.toNat s.upc.toNat = some u →
        action s = .run (encode s.ksbW u)))

/-- An instruction of the opcode table placed where the step fetches is the one the next step presents; the table's
command words are those of the default KSB_W. -/
def Obligations.PlacedWordIsPresented : Prop :=
  ∀ (s : State) (nbits w : Nat) (i : Instr), decodeTableWord nbits w = some i →
    action (s.withFetchWord nbits w) = .run (encode Config.ksbW i)

/-! ### Function units -/

/-- SBOX (R110): the table entry at index `a`, nothing else changed; no fixed point, no opposite fixed point. -/
def Obligations.SboxResult : Prop :=
  (∀ (a : Byte) (s : State), exec (.sbox a) s = .next { s with fnOut := .byte (romEntry sboxRows a) }) ∧
  (∀ a : Byte, romEntry sboxRows a ≠ a ∧ romEntry sboxRows a ≠ a ^^^ 0xff#8) ∧
  romEntry sboxRows 0x00#8 = 0x63#8 ∧ romEntry sboxRows 0xff#8 = 0x16#8 ∧ romEntry sboxRows 0x53#8 = 0xed#8

/-- INVSBOX (R111): the table entry at index `a`, nothing else changed; the inverse permutation of SBOX. -/
def Obligations.InvsboxResult : Prop :=
  (∀ (a : Byte) (s : State), exec (.invsbox a) s = .next { s with fnOut := .byte (romEntry invSboxRows a) }) ∧
  (∀ a : Byte, invSbox (sbox a) = a ∧ sbox (invSbox a) = a) ∧
  invSbox 0x00#8 = 0x52#8 ∧ invSbox 0x63#8 = 0x00#8 ∧ invSbox 0xff#8 = 0x7d#8 ∧ invSbox 0xed#8 = 0x53#8

/-- The laws of R114. -/
def Obligations.SboxLaws : Prop :=
  (∀ b : Byte, ∃ a : Byte, sbox a = b ∧ ∀ a', sbox a' = b → a' = a) ∧
  (∀ a : Byte, invSbox (sbox a) = a ∧ sbox (invSbox a) = a) ∧
  (∀ a : Byte, sbox a ≠ a ∧ sbox a ≠ a ^^^ 0xff#8) ∧
  sbox 0x00#8 = 0x63#8

/-- The construction R112 gives for the table: SBOX(a) = Aff(Inv(a)), Inv the multiplicative inverse with
Inv(0) = 0. -/
def Obligations.SboxIsAffineOfInverse : Prop :=
  ∀ (a x : Byte) (s : State), (a = 0x00#8 → x = 0x00#8) → (a ≠ 0x00#8 → polyMul a x = 0x01#8) →
    exec (.sbox a) s = .next { s with fnOut := .byte (affine x) }

/-- XTIME (R120): the product with x, as the shift formula and bit by bit; a bijection. -/
def Obligations.XtimeResult : Prop :=
  (∀ (b : Byte) (s : State), ∃ y : Byte,
    exec (.xtime b) s = .next { s with fnOut := .byte y } ∧
    y = ((b.setWidth 9 <<< 1) &&& 0xff#9).setWidth 8 ^^^ (if b.getLsbD 7 then 0x1b#8 else 0x00#8) ∧
    y = polyMul b 0x02#8 ∧
    y.getLsbD 0 = b.getLsbD 7 ∧ y.getLsbD 1 = (b.getLsbD 0 ^^ b.getLsbD 7) ∧ y.getLsbD 2 = b.getLsbD 1 ∧
    y.getLsbD 3 = (b.getLsbD 2 ^^ b.getLsbD 7) ∧ y.getLsbD 4 = (b.getLsbD 3 ^^ b.getLsbD 7) ∧
    y.getLsbD 5 = b.getLsbD 4 ∧ y.getLsbD 6 = b.getLsbD 5 ∧ y.getLsbD 7 = b.getLsbD 6) ∧
  (∀ b c : Byte, xtime b = xtime c → b = c) ∧
  xtime 0x00#8 = 0x00#8 ∧ xtime 0x7f#8 = 0xfe#8 ∧ xtime 0x80#8 = 0x1b#8 ∧ xtime 0xff#8 = 0xe5#8 ∧
  xtime 0x8d#8 = 0x01#8

/-- GMUL (R121, R122): the product of the two polynomials modulo x^8+x^4+x^3+x+1, for all 65536 pairs, nothing else
changed; also as the XOR of the doublings of `a` at the set bits of `b`. -/
def Obligations.GmulResult : Prop :=
  (∀ (a b : Byte) (s : State), exec (.gmul a b) s = .next { s with fnOut := .byte (polyMul a b) }) ∧
  (∀ a b : Byte, gmul a b =
    (List.range 8).foldl (fun p k => if b.getLsbD k then p ^^^ times xtime k a else p) 0x00#8) ∧
  (∀ a : Byte, gmul a 0x00#8 = 0x00#8 ∧ gmul 0x00#8 a = 0x00#8 ∧ gmul a 0x01#8 = a ∧ gmul a 0x02#8 = xtime a ∧
    gmul a 0x03#8 = xtime a ^^^ a) ∧
  gmul 0xff#8 0xff#8 = 0x13#8 ∧ gmul 0x53#8 0xca#8 = 0x01#8 ∧ gmul 0x57#8 0x13#8 = 0xfe#8

/-- The laws of the field (R123): commutative, associative, distributive over XOR, 1 and 0, one inverse for each
nonzero byte, the order of x, and the two mixing matrices inverse to each other. -/
def Obligations.FieldLaws : Prop :=
  (∀ a b : Byte, gmul a b = gmul b a) ∧
  (∀ a b c : Byte, gmul a (gmul b c) = gmul (gmul a b) c) ∧
  (∀ a b c : Byte, gmul a (b ^^^ c) = gmul a b ^^^ gmul a c) ∧
  (∀ a : Byte, gmul a 0x01#8 = a ∧ gmul a 0x00#8 = 0x00#8) ∧
  (∀ a : Byte, a ≠ 0x00#8 → ∃ b, gmul a b = 0x01#8 ∧ ∀ b', gmul a b' = 0x01#8 → b' = b) ∧
  (times xtime 51 0x01#8 = 0x01#8 ∧ (∀ n, 0 < n → n < 51 → times xtime n 0x01#8 ≠ 0x01#8) ∧
    (List.range 16).map (fun n => times xtime n 0x01#8) =
      [0x01#8, 0x02#8, 0x04#8, 0x08#8, 0x10#8, 0x20#8, 0x40#8, 0x80#8, 0x1b#8, 0x36#8, 0x6c#8, 0xd8#8, 0xab#8, 0x4d#8,
        0x9a#8, 0x2f#8]) ∧
  (∀ r c : Nat, r < 4 → c < 4 →
    let m := circulant #v[0x02#8, 0x03#8, 0x01#8, 0x01#8]
    let n := circulant #v[0x0e#8, 0x0b#8, 0x0d#8, 0x09#8]
    let one : Byte := if r = c then 0x01#8 else 0x00#8
    gmul (m r 0) (n 0 c) ^^^ gmul (m r 1) (n 1 c) ^^^ gmul (m r 2) (n 2 c) ^^^ gmul (m r 3) (n 3 c) = one ∧
    gmul (n r 0) (m 0 c) ^^^ gmul (n r 1) (m 1 c) ^^^ gmul (n r 2) (m 2 c) ^^^ gmul (n r 3) (m 3 c) = one)

/-- ROTWORD (R130): the word rotated left by one byte, nothing else changed; four applications give the identity, and
four equal bytes are unchanged. -/
def Obligations.RotwordResult : Prop :=
  (∀ (a b c d : Byte) (s : State), exec (.rotword a b c d) s = .next { s with fnOut := .word #v[b, c, d, a] }) ∧
  (∀ w : Word, rotWord (rotWord (rotWord (rotWord w))) = w) ∧
  (∀ a : Byte, rotWord #v[a, a, a, a] = #v[a, a, a, a])

/-- SUBWORD (R131): the forward S-box on each byte, nothing else changed. -/
def Obligations.SubwordResult : Prop :=
  (∀ (a b c d : Byte) (s : State),
    exec (.subword a b c d) s = .next { s with fnOut := .word #v[sbox a, sbox b, sbox c, sbox d] }) ∧
  subWord #v[0x00#8, 0x00#8, 0x00#8, 0x00#8] = #v[0x63#8, 0x63#8, 0x63#8, 0x63#8] ∧
  subWord #v[0x0d#8, 0x0e#8, 0x0f#8, 0x0c#8] = #v[0xd7#8, 0xab#8, 0x76#8, 0xfe#8]

/-- RCON (R132): for 1..10 the power x^(j-1), starting at 01 and each the double of the one before, nothing else
changed; any other index is refused. -/
def Obligations.RconResult : Prop :=
  (∀ (j : BitVec 4) (s : State), 1 ≤ j.toNat → j.toNat ≤ 10 →
    exec (.rcon j) s = .next { s with fnOut := .byte (times xtime (j.toNat - 1) 0x01#8) }) ∧
  (∀ (j : BitVec 4) (s : State), (j.toNat = 0 ∨ 10 < j.toNat) → exec (.rcon j) s = .refused (.rconIndex j))

/-! ### Key expansion -/

/-- KEXP.COPY i for i < NK (R135): W[i] is the four key bytes from 4i on, KIDX counts, and nothing else changes. -/
def Obligations.KexpCopyResult : Prop :=
  ∀ (s : State) (k : KeySize) (i : BitVec 6), keySizeOf s.nk s.nr = some k → i.toNat < k.words →
    ∃ t, exec (.kexpCopy i) s = .next t ∧
      (∃ v : Word, t.w[i.toNat]? = some v ∧ ∀ j : Fin 4, s.key[4 * i.toNat + j.val]? = some v[j]) ∧
      (∀ n, n ≠ i.toNat → t.w[n]? = s.w[n]?) ∧
      t = { s with w := t.w, kidx := s.kidx + 1#6 }

/-- KEXP.WORD i for NK ≤ i < 4(NR+1) (R134, R136): W[i] is W[i-NK] XOR T(i, NK, W[i-1]), KIDX counts, and at the last
index, and only there, PHASE is RUN and UPC 0; nothing else changes. -/
def Obligations.KexpWordResult : Prop :=
  ∀ (s : State) (k : KeySize) (i : BitVec 6), keySizeOf s.nk s.nr = some k → k.words ≤ i.toNat →
    i.toNat < 4 * (k.rounds + 1) →
    ∃ t, exec (.kexpWord i) s = .next t ∧
      (∃ a p v : Word, s.w[i.toNat - k.words]? = some a ∧ s.w[i.toNat - 1]? = some p ∧ t.w[i.toNat]? = some v ∧
        ∀ j : Fin 4, v[j] = a[j] ^^^ transformByte k.words i.toNat p j) ∧
      (∀ n, n ≠ i.toNat → t.w[n]? = s.w[n]?) ∧
      (i.toNat = 4 * (k.rounds + 1) - 1 → t = { s with w := t.w, kidx := s.kidx + 1#6, phase := .run, upc := 0#6 }) ∧
      (i.toNat ≠ 4 * (k.rounds + 1) - 1 → t = { s with w := t.w, kidx := s.kidx + 1#6 })

/-- An argument outside the range NK and NR give it has no meaning and is refused by name (R88): a KEXP index, or a
round above NR or above 14. -/
def Obligations.ArgumentOutOfRangeRefused : Prop :=
  (∀ (s : State) (i : BitVec 6), (∀ k, keySizeOf s.nk s.nr = some k → k.words ≤ i.toNat) →
    exec (.kexpCopy i) s = .refused .argumentOutOfRange) ∧
  (∀ (s : State) (i : BitVec 6),
    (∀ k, keySizeOf s.nk s.nr = some k → i.toNat < k.words ∨ 4 * (k.rounds + 1) ≤ i.toNat) →
    exec (.kexpWord i) s = .refused .argumentOutOfRange) ∧
  (∀ (s : State) (round : BitVec 4), s.nr.toNat < round.toNat ∨ 14 < round.toNat →
    exec (.addroundkey round) s = .refused .argumentOutOfRange)

/-- KeyExpand(key, Nk, Nr) (R137): 4(Nr+1) words, the first Nk the key's own, each later one W[i-Nk] XOR
T(i, Nk, W[i-1]). -/
def Obligations.KeyExpandRecurrence : Prop :=
  ∀ (k : KeySize) (key : KeyBytes),
    k.scheduleWords = 4 * (k.rounds + 1) ∧
    (∀ (i : Nat) (h : i < k.words) (hi : i < k.scheduleWords) (j : Fin 4),
      key[4 * i + j.val]? = some (keyExpand k key)[i][j]) ∧
    (∀ (i : Nat) (h : k.words ≤ i) (hi : i < k.scheduleWords) (j : Fin 4), ∃ a p : Word,
      (keyExpand k key)[i - k.words]? = some a ∧ (keyExpand k key)[i - 1]? = some p ∧
      (keyExpand k key)[i][j] = a[j] ^^^ transformByte k.words i p j)

/-- The key bytes from 4 Nk on cannot affect any result (R22, R205). -/
def Obligations.SpareKeyBytesIgnored : Prop :=
  ∀ (op : Op) (ksb : Ksb) (key key' : KeyBytes) (block : Block) (k : KeySize), decodeKsb ksb = some k →
    (∀ n, n < 4 * k.words → key[n]? = key'[n]?) →
    keyExpand k key = keyExpand k key' ∧ command op ksb key block = command op ksb key' block

/-- The KEXP phase computes KeyExpand step by step (R137, R139): from KIDX = 0, with no reset to come and nothing on a
function unit's bus (log 5), 4(NR+1) steps later the schedule is in W, PHASE is RUN and UPC 0; the words above the
schedule and every other register are as before. -/
def Obligations.KexpPhaseComputesKeyExpand : Prop :=
  ∀ (s : State) (k : KeySize), s.phase = .kexp → keySizeOf s.nk s.nr = some k → s.kidx = 0#6 → s.fnIn = none →
    NoReset s →
    ∃ t : State, Host.Core.run core k.scheduleWords s = .next t ∧
      (∀ i (h : i < k.scheduleWords), t.w[i]? = some (keyExpand k s.key)[i]) ∧
      (∀ i, k.scheduleWords ≤ i → t.w[i]? = s.w[i]?) ∧ t.kidx.toNat = k.scheduleWords ∧
      t = { s with w := t.w, kidx := t.kidx, phase := .run, upc := 0#6, pins := t.pins, plan := t.plan }

/-! ### Round transforms -/

/-- SUBBYTES (R150). -/
def Obligations.SubbytesResult : Prop :=
  ∀ s : State, ∃ t, exec .subbytes s = .next t ∧
    (∀ r c : Nat, r < 4 → c < 4 → cell t.state r c = sbox (cell s.state r c)) ∧
    (∀ (k : Nat) (h : k < 16), t.state[k] = sbox s.state[k]) ∧
    t = { s with state := t.state, upc := s.upc + 1#6 }

/-- INVSUBBYTES, the inverse of SUBBYTES both ways (R151). -/
def Obligations.InvsubbytesResult : Prop :=
  ∀ s : State, ∃ t, exec .invsubbytes s = .next t ∧
    (∀ r c : Nat, r < 4 → c < 4 → cell t.state r c = invSbox (cell s.state r c)) ∧
    (subBytes t.state = s.state ∧ invSubBytes (subBytes s.state) = s.state) ∧
    t = { s with state := t.state, upc := s.upc + 1#6 }

/-- SHIFTROWS, by rows and as the flat permutation (R152). -/
def Obligations.ShiftrowsResult : Prop :=
  ∀ s : State, ∃ t, exec .shiftrows s = .next t ∧
    (∀ r c : Nat, r < 4 → c < 4 → cell t.state r c = cell s.state r ((c + r) % 4)) ∧
    (∀ (k : Nat) (h : k < 16), t.state[k] = s.state[(k + 4 * (k % 4)) % 16]) ∧
    t = { s with state := t.state, upc := s.upc + 1#6 }

/-- INVSHIFTROWS, the inverse of SHIFTROWS; it commutes with both substitutions (R153). -/
def Obligations.InvshiftrowsResult : Prop :=
  ∀ s : State, ∃ t, exec .invshiftrows s = .next t ∧
    (∀ r c : Nat, r < 4 → c < 4 → cell t.state r ((c + r) % 4) = cell s.state r c) ∧
    (∀ r c : Nat, r < 4 → c < 4 → cell t.state r c = cell s.state r ((c + 4 - r) % 4)) ∧
    invShiftRows (shiftRows s.state) = s.state ∧
    (invShiftRows (subBytes s.state) = subBytes t.state ∧ invShiftRows (invSubBytes s.state) = invSubBytes t.state) ∧
    t = { s with state := t.state, upc := s.upc + 1#6 }

/-- MIXCOLUMNS: the four rows by XTIME, and the product with the matrix 02 03 01 01 in GF(2^8); a column of four equal
bytes is unchanged (R154). -/
def Obligations.MixcolumnsResult : Prop :=
  ∀ s : State, ∃ t, exec .mixcolumns s = .next t ∧
    (∀ c : Nat, c < 4 →
      let a0 := cell s.state 0 c
      let a1 := cell s.state 1 c
      let a2 := cell s.state 2 c
      let a3 := cell s.state 3 c
      cell t.state 0 c = xtime a0 ^^^ (xtime a1 ^^^ a1) ^^^ a2 ^^^ a3 ∧
      cell t.state 1 c = a0 ^^^ xtime a1 ^^^ (xtime a2 ^^^ a2) ^^^ a3 ∧
      cell t.state 2 c = a0 ^^^ a1 ^^^ xtime a2 ^^^ (xtime a3 ^^^ a3) ∧
      cell t.state 3 c = (xtime a0 ^^^ a0) ^^^ a1 ^^^ a2 ^^^ xtime a3 ∧
      (a0 = a1 → a1 = a2 → a2 = a3 → ∀ r, r < 4 → cell t.state r c = a0)) ∧
    (∀ r c : Nat, r < 4 → c < 4 →
      cell t.state r c = matrixCell #v[0x02#8, 0x03#8, 0x01#8, 0x01#8] s.state r c) ∧
    t = { s with state := t.state, upc := s.upc + 1#6 }

/-- INVMIXCOLUMNS: the product with the matrix 0e 0b 0d 09 in GF(2^8); the inverse of MIXCOLUMNS, linear over XOR
(R155). -/
def Obligations.InvmixcolumnsResult : Prop :=
  ∀ s : State, ∃ t, exec .invmixcolumns s = .next t ∧
    (∀ r c : Nat, r < 4 → c < 4 →
      cell t.state r c = matrixCell #v[0x0e#8, 0x0b#8, 0x0d#8, 0x09#8] s.state r c) ∧
    invMixColumns (mixColumns s.state) = s.state ∧
    (∀ u : Block, invMixColumns (addRoundKey s.state u) = addRoundKey t.state (invMixColumns u)) ∧
    t = { s with state := t.state, upc := s.upc + 1#6 }

/-- ADDROUNDKEY round for round ≤ NR (R53, R156): byte r of word W[4 round + c] meets row r of column c; W is not
changed; a second application restores the State. -/
def Obligations.AddroundkeyResult : Prop :=
  ∀ (s : State) (round : BitVec 4), round.toNat ≤ s.nr.toNat → round.toNat ≤ 14 →
    ∃ t, exec (.addroundkey round) s = .next t ∧
      (∀ r c : Fin 4, ∃ rk : Word, s.w[4 * round.toNat + c.val]? = some rk ∧
        cell t.state r.val c.val = cell s.state r.val c.val ^^^ rk[r]) ∧
      t = { s with state := t.state, upc := s.upc + 1#6 } ∧
      (∃ u, exec (.addroundkey round) t = .next u ∧ u.state = s.state)

/-- The inverse pairs of R157. -/
def Obligations.TransformInversePairs : Prop :=
  ∀ s rk : Block,
    invSubBytes (subBytes s) = s ∧ invShiftRows (shiftRows s) = s ∧ invMixColumns (mixColumns s) = s ∧
    addRoundKey (addRoundKey s rk) rk = s ∧ shiftRows (subBytes s) = subBytes (shiftRows s) ∧
    invShiftRows (invSubBytes s) = invSubBytes (invShiftRows s)

/-! ### Driver -/

/-- LOADSTATE (R170): column-major, which on the flat vector is the identity; BLK is unchanged. -/
def Obligations.LoadstateResult : Prop :=
  ∀ s : State, ∃ t, exec .loadstate s = .next t ∧
    (∀ (r c : Nat) (hr : r < 4) (hc : c < 4), cell t.state r c = s.blk[r + 4 * c]) ∧
    t = { s with state := s.blk, upc := s.upc + 1#6 }

/-- STORESTATE (R171): OUT is the State, PHASE is DONE; the State is unchanged. -/
def Obligations.StorestateResult : Prop :=
  ∀ s : State, exec .storestate s = .next { s with out := s.state, phase := .done, upc := s.upc + 1#6 }

/-- The micro-programs are the pseudo-ops CIPHER and INVCIPHER written out, 4 NR + 2 uops each, and end there (R91,
R172, R173). -/
def Obligations.MicroProgramsAreExpansions : Prop :=
  ∀ k : KeySize,
    (List.range (4 * k.rounds + 2)).map (uopEnc k.rounds) = (cipherUops k.rounds).map some ∧
    (List.range (4 * k.rounds + 2)).map (uopDec k.rounds) = (invCipherUops k.rounds).map some ∧
    uopEnc k.rounds (4 * k.rounds + 2) = none ∧ uopDec k.rounds (4 * k.rounds + 2) = none

/-- The sequencer, with no reset and nothing on a function unit's bus (log 5), only produces the uops of R83 with
legal arguments: no KEXP uop in RUN, no round uop in KEXP, no inverse uop for ENCRYPT, no forward SUBBYTES, SHIFTROWS
or MIXCOLUMNS for DECRYPT (R176). -/
def Obligations.SequencerIssuesLegalUops : Prop :=
  ∀ s : State, SequencerInv s → s.pins.rst = false → s.fnIn = none →
    (s.phase = .kexp → ∃ i k, keySizeOf s.nk s.nr = some k ∧
      ((action s = .run (encode s.ksbW (.kexpCopy i)) ∧ i.toNat < k.words) ∨
        (action s = .run (encode s.ksbW (.kexpWord i)) ∧ k.words ≤ i.toNat ∧ i.toNat < k.scheduleWords))) ∧
    (s.phase = .run → ∃ u, action s = .run (encode s.ksbW u) ∧ u.wellFormed s.ksbW = true ∧
      (u = .loadstate ∨ u = .storestate ∨
        (∃ round : BitVec 4, u = .addroundkey round ∧ round.toNat ≤ s.nr.toNat ∧ round.toNat ≤ 14) ∨
        (s.op = .encrypt ∧ (u = .subbytes ∨ u = .shiftrows ∨ u = .mixcolumns)) ∨
        (s.op = .decrypt ∧ (u = .invsubbytes ∨ u = .invshiftrows ∨ u = .invmixcolumns))))

/-- Decryption undoes encryption and the other way, for every block and every schedule (R172, R173, R157). -/
def Obligations.CiphersInverse : Prop :=
  ∀ {n : Nat} (w : Vector Word n) (nr : Nat) (h : 4 * nr + 3 < n) (b : Block),
    invCipher (cipher b w nr h) w nr h = b ∧ cipher (invCipher b w nr h) w nr h = b

/-- The RUN phase computes Cipher or InvCipher uop by uop (R172, R173, R174): from UPC = 0 with a schedule in W, no
reset to come and nothing on a function unit's bus (log 5), 4 NR + 2 steps later OUT holds the result and PHASE is
DONE; every other register but STATE and UPC is as before. -/
def Obligations.RunPhaseComputesCipher : Prop :=
  ∀ (s : State) (k : KeySize) (w : Vector Word k.scheduleWords), s.phase = .run → keySizeOf s.nk s.nr = some k →
    s.upc = 0#6 → s.fnIn = none → NoReset s → (∀ i (h : i < k.scheduleWords), s.w[i]? = some w[i]) →
    ∃ t : State, Host.Core.run core (4 * k.rounds + 2) s = .next t ∧
      t.out = (match s.op with
        | .encrypt => cipher s.blk w k.rounds (last_round_key_in_schedule k)
        | .decrypt => invCipher s.blk w k.rounds (last_round_key_in_schedule k)) ∧
      t.upc.toNat = 4 * k.rounds + 2 ∧
      t = { s with state := t.out, out := t.out, phase := .done, upc := t.upc, pins := t.pins, plan := t.plan }

/-! ### Commands, the exception, the handshakes -/

/-- ACCEPT of the six valid forms in IDLE (R201, R208 to R213): everything latched, Nk and Nr set, STATUS OK, KIDX 0,
PHASE KEXP, and nothing else changed. -/
def Obligations.AcceptValidForms : Prop :=
  ∀ s : State, s.phase = .idle →
    exec .encrypt128 s = .next (acceptedAs .encrypt 128 4#4 10#4 s) ∧
    exec .encrypt192 s = .next (acceptedAs .encrypt 192 6#4 12#4 s) ∧
    exec .encrypt256 s = .next (acceptedAs .encrypt 256 8#4 14#4 s) ∧
    exec .decrypt128 s = .next (acceptedAs .decrypt 128 4#4 10#4 s) ∧
    exec .decrypt192 s = .next (acceptedAs .decrypt 192 6#4 12#4 s) ∧
    exec .decrypt256 s = .next (acceptedAs .decrypt 256 8#4 14#4 s)

/-- ACCEPT of the generic forms in IDLE, for every `ksb` (R82, R201, R206, R207). -/
def Obligations.AcceptGenericForms : Prop :=
  ∀ (s : State) (ksb : Ksb), s.phase = .idle → ∀ op : Op,
    exec (match op with | .encrypt => .encrypt ksb | .decrypt => .decrypt ksb) s =
      .next (if ksb = 128 then acceptedAs op ksb 4#4 10#4 s
        else if ksb = 192 then acceptedAs op ksb 6#4 12#4 s
        else if ksb = 256 then acceptedAs op ksb 8#4 14#4 s
        else rejectedAs op ksb s)

/-- InvalidKeySize (R202, R222): STATUS and PHASE beside what every ACCEPT latches; NK, NR, KIDX, UPC, STATE, W and
OUT are not written; the response offered has status 1 and no block. -/
def Obligations.InvalidKeySizeTaken : Prop :=
  ∀ (s : State) (ksb : Ksb), s.phase = .idle → ksb ≠ 128 → ksb ≠ 192 → ksb ≠ 256 →
    exec (.encrypt ksb) s = .next (rejectedAs .encrypt ksb s) ∧
    exec (.decrypt ksb) s = .next (rejectedAs .decrypt ksb s) ∧
    ∀ op, rspStatus (rejectedAs op ksb s) = 1#1 ∧ rspBlock (rejectedAs op ksb s) = none ∧
      offered (rejectedAs op ksb s) = some .invalidKeySize

/-- A command while PHASE is not IDLE is turned away with no effect, and `cmd_ready` is 0 (R201, R256). -/
def Obligations.BusyCommandHasNoEffect : Prop :=
  ∀ (s : State) (ksb : Ksb), s.phase ≠ .idle → cmdReady s = false ∧
    ∀ i, i ∈ [Instr.encrypt128, .encrypt192, .encrypt256, .decrypt128, .decrypt192, .decrypt256, .encrypt ksb,
      .decrypt ksb] → exec i s = .next s

/-- The bus packing (R54): byte k of an n-byte bus is bits [8(n-1-k)+7 : 8(n-1-k)], and packing and unpacking are
inverse to each other. -/
def Obligations.BusPacking : Prop :=
  ∀ (n : Nat) (bus : BitVec (8 * n)) (v : Bytes n),
    (∀ (k : Nat) (h : k < n) (i : Nat), i < 8 → (busBytes n bus)[k].getLsbD i = bus.getLsbD (8 * (n - 1 - k) + i)) ∧
    (∀ (k : Nat) (h : k < n) (i : Nat), i < 8 → (busOf v).getLsbD (8 * (n - 1 - k) + i) = v[k].getLsbD i) ∧
    busOf (busBytes n bus) = bus ∧ busBytes n (busOf v) = v

/-- RESPOND and the wait in DONE (R204), with no reset and nothing on a function unit's bus (log 5): with a ready host
the response (STATUS, OUT) is taken and PHASE is IDLE; with no ready host the core waits; no register but PHASE
changes. -/
def Obligations.DoneRespondsOrWaits : Prop :=
  ∀ s : State, s.phase = .done → s.pins.rst = false → s.fnIn = none →
    rspValid s = true ∧
    (s.pins.rspReady = true →
      (s.status = .ok →
        step s = .next (hostTurn { s with phase := .idle, received := s.received ++ [.ok s.out] })) ∧
      (s.status = .invalidKeySize →
        step s = .next (hostTurn { s with phase := .idle, received := s.received ++ [.invalidKeySize] }))) ∧
    (s.pins.rspReady = false → step s = .next (hostTurn s))

/-- IDLE (R201), with no reset and nothing on a function unit's bus (log 5): with no command the core does nothing;
with one it is accepted. -/
def Obligations.IdleAcceptsOrWaits : Prop :=
  ∀ s : State, s.phase = .idle → s.pins.rst = false → s.fnIn = none →
    cmdReady s = true ∧
    (s.pins.cmdValid = false → step s = .next (hostTurn s)) ∧
    (s.pins.cmdValid = true → step s = .next (hostTurn (accept (opOfCode s.pins.cmdOp) (portKsb s) s)))

/-! ### Reset -/

/-- The RESET step (R250, R251): whatever else could happen, PHASE is IDLE, `cmd_ready` is 1, no response is offered,
and the host has received nothing for a command cut off. -/
def Obligations.ResetStep : Prop :=
  ∀ s : State, s.pins.rst = true → ∃ t, step s = .next t ∧ t.phase = .idle ∧ cmdReady t = true ∧
    rspValid t = false ∧ offered t = none ∧ t.received = s.received

/-- Right after reset (R36, R252): PHASE is IDLE, so `cmd_ready` is 1 and `rsp_valid` 0, and a command offered then is
accepted in the very next step, at every KSB_W. -/
def Obligations.ResetState : Prop :=
  State.reset.phase = .idle ∧ cmdReady State.reset = true ∧ rspValid State.reset = false ∧
  ∀ (w : Nat) (p : Pins), p.rst = false → p.cmdValid = true →
    ∃ t, step { State.reset with ksbW := w, pins := p } = .next t ∧ (t.phase = .kexp ∨ t.phase = .done) ∧
      t.ksb = p.cmdKsb % 2 ^ w

/-! ### The whole machine -/

/-- Who writes what (R22, R25, R26, R28, R29, R30, R35), over every step that is not a reset: a register changes only
in the phase, and at the position, whose step writes it. -/
def Obligations.WritersOfRegisters : Prop :=
  ∀ s t : State, step s = .next t → s.pins.rst = false →
    (t.key ≠ s.key ∨ t.blk ≠ s.blk ∨ t.op ≠ s.op ∨ t.ksb ≠ s.ksb ∨ t.status ≠ s.status →
      s.phase = .idle ∧ s.pins.cmdValid = true) ∧
    (t.nk ≠ s.nk ∨ t.nr ≠ s.nr → s.phase = .idle ∧ s.pins.cmdValid = true ∧ decodeKsb (portKsb s) ≠ none) ∧
    (t.w ≠ s.w → s.phase = .kexp) ∧
    (t.state ≠ s.state → s.phase = .run) ∧
    (t.out ≠ s.out → s.phase = .run ∧ s.upc.toNat = 4 * s.nr.toNat + 1) ∧
    (t.kidx ≠ s.kidx → s.phase = .kexp ∨ (s.phase = .idle ∧ s.pins.cmdValid = true)) ∧
    (t.upc ≠ s.upc → s.phase = .run ∨ (s.phase = .kexp ∧ s.kidx.toNat = 4 * (s.nr.toNat + 1) - 1)) ∧
    (t.received ≠ s.received → s.phase = .done ∧ s.pins.rspReady = true)

/-- The phase changes are those of R27 and no others, but for reset. -/
def Obligations.PhaseTransitions : Prop :=
  ∀ s t : State, step s = .next t → s.pins.rst = false → t.phase ≠ s.phase →
    (s.phase = .idle ∧ t.phase = .kexp ∧ s.pins.cmdValid = true ∧ decodeKsb (portKsb s) ≠ none) ∨
    (s.phase = .idle ∧ t.phase = .done ∧ s.pins.cmdValid = true ∧ decodeKsb (portKsb s) = none) ∨
    (s.phase = .kexp ∧ t.phase = .run ∧ s.kidx.toNat = 4 * (s.nr.toNat + 1) - 1) ∨
    (s.phase = .run ∧ t.phase = .done ∧ s.upc.toNat = 4 * s.nr.toNat + 1) ∨
    (s.phase = .done ∧ t.phase = .idle ∧ s.pins.rspReady = true)

/-- With no reset and nothing on a function unit's bus (log 5), the counters add exactly 1 and never wrap (R28, R29,
R33): KIDX stays at most 60, UPC at most 58. -/
def Obligations.CountersAdvance : Prop :=
  ∀ s : State, SequencerInv s → s.pins.rst = false → s.fnIn = none →
    (s.phase = .kexp → ∃ t, step s = .next t ∧ t.kidx.toNat = s.kidx.toNat + 1 ∧ t.kidx.toNat ≤ 60) ∧
    (s.phase = .run → ∃ t, step s = .next t ∧ t.upc.toNat = s.upc.toNat + 1 ∧ t.upc.toNat ≤ 58)

/-- The invariant of the sequencer holds after reset, and KSB holds a pattern of KSB_W bits, at every KSB_W; the latter
rests on the zero the model chose for KSB (log 1). -/
def Obligations.InvAtReset : Prop :=
  SequencerInv State.reset ∧ ∀ w : Nat, KsbFits { State.reset with ksbW := w }

/-- Every step keeps the invariant of the sequencer (R26, R39), reset and the host's turn included; and every step
leaves KSB a pattern of KSB_W bits and leaves the parameter KSB_W alone (R20, D5; log 11). -/
def Obligations.InvKept : Prop :=
  (∀ s t : State, SequencerInv s → step s = .next t → SequencerInv t) ∧
  (∀ s t : State, KsbFits s → step s = .next t → KsbFits t ∧ t.ksbW = s.ksbW)

/-- The core never stops (R203, R221, R234): from every state of the invariant, whatever the wires carry, the step
answers a next state. -/
def Obligations.NeverStops : Prop :=
  ∀ s : State, SequencerInv s → FnLegal s → ∃ t, step s = .next t

/-- In KEXP and RUN, with no reset and nothing on a function unit's bus (log 5), every step of the core brings DONE
one step nearer (R177, R203): the count is the one of R177. -/
def Obligations.RemainingDecreases : Prop :=
  ∀ s : State, SequencerInv s → s.pins.rst = false → s.fnIn = none → (s.phase = .kexp ∨ s.phase = .run) →
    ∃ t, step s = .next t ∧ remaining t + 1 = remaining s ∧ (remaining t = 0 ↔ t.phase = .done)

/-- No port value but `rst` influences a KEXP or RUN step (R203). -/
def Obligations.HostCannotInterfere : Prop :=
  ∀ (s t : State) (p : Pins) (ps : List Pins), (s.phase = .kexp ∨ s.phase = .run) → s.pins.rst = false →
    p.rst = false → step s = .next t →
    ∃ t', step { s with pins := p, plan := ps } = .next t' ∧ t = { t' with pins := t.pins, plan := t.plan }

/-- What a step does depends on no data byte: not on KEY, BLK, STATE, W or OUT (R261). -/
def Obligations.SequenceIndependentOfData : Prop :=
  ∀ (s : State) (key : KeyBytes) (blk st out : Block) (w : Schedule),
    action { s with key := key, blk := blk, state := st, w := w, out := out } = action s

/-- A command from IDLE to DONE (R205, R177), with no reset to come and nothing on a function unit's bus (log 5):
after its steps the response offered is Command(op, ksb, key, block), a function of the four values on the port and of
nothing else in the state. -/
def Obligations.CommandComputes : Prop :=
  ∀ s : State, s.phase = .idle → s.pins.cmdValid = true → s.fnIn = none → NoReset s →
    ∃ t : State, Host.Core.run core (stepsToDone (portKsb s)) s = .next t ∧
      offered t = some (command (opOfCode s.pins.cmdOp) (portKsb s) (busBytes 32 s.pins.cmdKey)
        (busBytes 16 s.pins.cmdBlock)) ∧
      t.received = s.received

/-- A command to its end (R177, R200, R204), with no reset to come and nothing on a function unit's bus (log 5): with
a host that stays ready, RESPOND included it takes 88, 104 or 120 steps, 2 with an invalid key size, and gives exactly
one response. -/
def Obligations.CommandAnswered : Prop :=
  (∀ s : State, s.phase = .idle → s.pins.cmdValid = true → s.fnIn = none → NoReset s → s.pins.rspReady = true →
    (∀ p ∈ s.plan, p.rspReady = true) →
    ∃ t : State, Host.Core.run core (stepsToDone (portKsb s) + 1) s = .next t ∧ t.phase = .idle ∧
      t.received = s.received ++ [command (opOfCode s.pins.cmdOp) (portKsb s) (busBytes 32 s.pins.cmdKey)
        (busBytes 16 s.pins.cmdBlock)]) ∧
  stepsToDone 128 + 1 = 88 ∧ stepsToDone 192 + 1 = 104 ∧ stepsToDone 256 + 1 = 120 ∧
  (∀ ksb : Ksb, ksb ≠ 128 → ksb ≠ 192 → ksb ≠ 256 → stepsToDone ksb + 1 = 2)

/-- Round trip (R207): for every key, valid key size and block, decrypting what encrypting gives is the block, and the
other way. -/
def Obligations.RoundTrip : Prop :=
  ∀ (ksb : Ksb) (key : KeyBytes) (b c : Block),
    (command .encrypt ksb key b = .ok c → command .decrypt ksb key c = .ok b) ∧
    (command .decrypt ksb key b = .ok c → command .encrypt ksb key c = .ok b)

/-- Call isolation (R37, R205): two idle cores of one KSB_W that are offered the same command, with no reset to come
and nothing on a function unit's bus (log 5), whatever their registers still hold from earlier commands, offer the
same response. -/
def Obligations.ResidueUnobservable : Prop :=
  ∀ s s' : State, s.ksbW = s'.ksbW → s.phase = .idle → s'.phase = .idle → s.pins = s'.pins → s.plan = s'.plan →
    s.fnIn = none → s'.fnIn = none → s.pins.cmdValid = true → NoReset s →
    ∃ t t' : State, Host.Core.run core (stepsToDone (portKsb s)) s = .next t ∧
      Host.Core.run core (stepsToDone (portKsb s)) s' = .next t' ∧
      offered t = offered t' ∧ (offered t).isSome = true

/-- The width of keySizeBits is open (R7: "any value ≥ 9 gives the same behaviour on the values it can hold"): where a
value on the port fits both widths, a step of a core with KSB_W = `w` is the same step. The RESET step is left out
only because it makes KSB a free pattern of the core's own width (R250; log 2). -/
def Obligations.KsbWidthIsOpen : Prop :=
  ∀ (s : State) (w : Nat), s.pins.rst = false → s.pins.cmdKsb < 2 ^ s.ksbW → s.pins.cmdKsb < 2 ^ w →
    step { s with ksbW := w } = (match step s with
      | .next t => .next { t with ksbW := w }
      | .fault f => .fault f
      | .refused r => .refused r)

end
end

