-- ==== Sys2Proof/Laws/Data.lean ====
section
/-!
SUPPORT. The small lemmas of byte vectors, cells and slices, so that no later proof unfolds `tabulate`, `cell`,
`fromCells`, `roundKey`, `keyWord` or `xorWord`.
-/
namespace Sys2Proof

@[simp] theorem getElem_tabulate {α : Type} {n : Nat} (f : Fin n → α) (i : Nat) (h : i < n) :
    (tabulate f)[i] = f ⟨i, h⟩ := by
  simp [tabulate]

namespace Machine

@[simp] theorem getElem_busBytes (n : Nat) (bus : BitVec (8 * n)) (i : Nat) (h : i < n) :
    (busBytes n bus)[i] = bus.extractLsb' (8 * (n - 1 - i)) 8 := by
  simp [busBytes]

@[simp] theorem getElem_xorWord (a b : Word) (j : Nat) (h : j < 4) : (xorWord a b)[j] = a[j] ^^^ b[j] := by
  simp [xorWord]

@[simp] theorem getElem_keyWord (key : KeyBytes) (i : Nat) (hi : i < 8) (j : Nat) (h : j < 4) :
    (keyWord key i hi)[j] = key[4 * i + j] := by
  simp [keyWord]

@[simp] theorem getElem_roundKey {n : Nat} (w : Vector Word n) (round : Nat) (hr : 4 * round + 3 < n) (k : Nat)
    (h : k < 16) : (roundKey w round hr)[k] = w[4 * round + k / 4][k % 4] := by
  simp [roundKey]

@[simp] theorem getElem_subWord (w : Word) (j : Nat) (h : j < 4) : (subWord w)[j] = sbox w[j] := by
  simp [subWord]

@[simp] theorem getElem_addRoundKey (s rk : Block) (k : Nat) (h : k < 16) :
    (addRoundKey s rk)[k] = s[k] ^^^ rk[k] := by
  simp [addRoundKey]

/-- Byte `k` of the State is the cell of row `k mod 4`, column `k div 4` (R23). -/
theorem getElem_eq_cell (s : Block) (k : Nat) (h : k < 16) : s[k] = cell s (k % 4) (k / 4) := by
  unfold cell
  congr 1
  omega

/-- Rows and columns count modulo 4 (R9). -/
theorem cell_mod (s : Block) (r c : Nat) : cell s (r % 4) (c % 4) = cell s r c := by
  simp [cell]

/-- Indices that agree modulo 4 name the same cell. -/
theorem cell_congr (s : Block) {r r' c c' : Nat} (hr : r % 4 = r' % 4) (hc : c % 4 = c' % 4) :
    cell s r c = cell s r' c' := by
  rw [← cell_mod s r c, ← cell_mod s r' c', hr, hc]

/-- A State built from its cells has them. -/
@[simp] theorem cell_fromCells (f : Nat → Nat → Byte) (r c : Nat) :
    cell (fromCells f) r c = f (r % 4) (c % 4) := by
  have h1 : (r % 4 + 4 * (c % 4)) % 4 = r % 4 := by omega
  have h2 : (r % 4 + 4 * (c % 4)) / 4 = c % 4 := by omega
  simp [cell, fromCells, h1, h2]

@[simp] theorem getElem_fromCells (f : Nat → Nat → Byte) (k : Nat) (h : k < 16) :
    (fromCells f)[k] = f (k % 4) (k / 4) := by
  simp [fromCells]

/-- Two States with the same sixteen cells are equal. -/
theorem block_ext_cells {s t : Block} (h : ∀ r c, r < 4 → c < 4 → cell s r c = cell t r c) : s = t := by
  apply Vector.ext
  intro k hk
  rw [getElem_eq_cell s k hk, getElem_eq_cell t k hk]
  exact h _ _ (by omega) (by omega)

/-- Loading a block column-major is the identity on its bytes (R51, R170). -/
theorem fromCells_cell (s : Block) : (fromCells fun r c => cell s r c) = s :=
  block_ext_cells fun r c hr hc => by simp [Nat.mod_eq_of_lt hr, Nat.mod_eq_of_lt hc]

end Machine

end Sys2Proof
end

