-- ==== Sys2Proof/Laws/Keys.lean ====
section
/-!
SUPPORT. The lemmas of key sizes and of the key expansion: which registers and which keySizeBits name a key size, and
the words of a partial expansion.
-/
namespace Sys2Proof.Machine

/-- The keySizeBits of a recognised key size. -/
theorem decodeKsb_eq_some (ksb : Ksb) (k : KeySize) :
    decodeKsb ksb = some k ↔ ksb = 32 * k.words := by
  cases k <;> simp only [decodeKsb, KeySize.words] <;> grind

/-- keySizeBits is invalid exactly when it is none of 128, 192, 256 (R82). -/
theorem decodeKsb_eq_none (ksb : Ksb) :
    decodeKsb ksb = none ↔ ksb ≠ 128 ∧ ksb ≠ 192 ∧ ksb ≠ 256 := by
  simp only [decodeKsb]; grind

/-- What the core sees on the port is a pattern of KSB_W bits (log 11). -/
theorem portKsb_lt (s : State) : portKsb s < 2 ^ s.ksbW := Nat.mod_lt _ (Nat.two_pow_pos _)

/-- A keySizeBits that KSB_W bits can hold reaches the core as it is (R7, R34). -/
theorem portKsb_of_fits {s : State} (h : s.pins.cmdKsb < 2 ^ s.ksbW) : portKsb s = s.pins.cmdKsb := Nat.mod_eq_of_lt h

/-- The registers hold the pair of a key size exactly when NK = Nk and NR = Nr (R26). -/
theorem keySizeOf_eq_some (nk nr : BitVec 4) (k : KeySize) :
    keySizeOf nk nr = some k ↔ nk = BitVec.ofNat 4 k.words ∧ nr = BitVec.ofNat 4 k.rounds := by
  cases k <;> simp only [keySizeOf, KeySize.words, KeySize.rounds] <;> grind

@[simp] theorem keySizeOf_words_rounds (k : KeySize) :
    keySizeOf (BitVec.ofNat 4 k.words) (BitVec.ofNat 4 k.rounds) = some k := by
  cases k <;> decide

/-- What the registers of a legal pair count. -/
theorem toNat_of_keySizeOf {nk nr : BitVec 4} {k : KeySize} (h : keySizeOf nk nr = some k) :
    nk.toNat = k.words ∧ nr.toNat = k.rounds := by
  obtain ⟨rfl, rfl⟩ := (keySizeOf_eq_some nk nr k).mp h
  cases k <;> decide

/-- A shorter expansion is a prefix of a longer one. -/
theorem getElem_expandWords_succ (k : KeySize) (key : KeyBytes) (n : Nat) (h : n + 1 ≤ k.scheduleWords) (i : Nat)
    (hi : i < n) : (expandWords k key (n + 1) h)[i] = (expandWords k key n (by omega))[i] := by
  simp [expandWords, hi]

/-- Word `i` of an expansion does not depend on how far the expansion goes. -/
theorem getElem_expandWords (k : KeySize) (key : KeyBytes) (i n : Nat) (h : n ≤ k.scheduleWords) (hi : i < n) :
    (expandWords k key n h)[i] = (expandWords k key (i + 1) (by omega))[i] := by
  induction n with
  | zero => omega
  | succ n ih =>
    by_cases hn : i = n
    · subst hn; rfl
    · rw [getElem_expandWords_succ k key n h i (by omega)]
      exact ih (by omega) (by omega)

/-- KEXP.COPY either refuses or writes word `i` (R135, R88). -/
theorem execKexpCopy_eq (i : BitVec 6) (s : State) (k : KeySize) (hk : keySizeOf s.nk s.nr = some k)
    (h : i.toNat < k.words) :
    execKexpCopy i s = .next (putWord i.toNat (by have := schedule_bounds k; omega)
      (keyWord s.key i.toNat (by have := schedule_bounds k; omega)) s) := by
  simp only [execKexpCopy]
  split
  · simp_all
  · rename_i k' hk'
    obtain rfl : k' = k := by simpa [hk] using hk'.symm
    simp [h]

/-- KEXP.WORD with a legal index writes word `i` and, at the last one, begins RUN (R136). -/
theorem execKexpWord_eq (i : BitVec 6) (s : State) (k : KeySize) (hk : keySizeOf s.nk s.nr = some k)
    (h : k.words ≤ i.toNat ∧ i.toNat < k.scheduleWords) :
    execKexpWord i s =
      .next (if i.toNat = k.scheduleWords - 1
        then beginRun (putWord i.toNat (by have := schedule_bounds k; omega)
          (xorWord (s.w[i.toNat - k.words]'(by have := schedule_bounds k; omega))
            (transform k i.toNat h (s.w[i.toNat - 1]'(by have := schedule_bounds k; omega)))) s)
        else putWord i.toNat (by have := schedule_bounds k; omega)
          (xorWord (s.w[i.toNat - k.words]'(by have := schedule_bounds k; omega))
            (transform k i.toNat h (s.w[i.toNat - 1]'(by have := schedule_bounds k; omega)))) s) := by
  simp only [execKexpWord]
  split
  · simp_all
  · rename_i k' hk'
    obtain rfl : k' = k := by simpa [hk] using hk'.symm
    simp [h]

end Sys2Proof.Machine
end

