-- ==== Sys2Proof/Laws/State.lean ====
section
/-!
SUPPORT. One lemma per field of State per named operation of Machine/Ops.lean: what the operation leaves in it.
-/
namespace Sys2Proof.Machine

variable (s : State)

/-! ### latchCommand: What ACCEPT latches (R201). -/

@[simp] theorem latchCommand_ksbW (op : Op) (ksb : Ksb) : (latchCommand op ksb s).ksbW = s.ksbW := rfl
@[simp] theorem latchCommand_key (op : Op) (ksb : Ksb) : (latchCommand op ksb s).key = busBytes 32 s.pins.cmdKey := rfl
@[simp] theorem latchCommand_blk (op : Op) (ksb : Ksb) : (latchCommand op ksb s).blk = busBytes 16 s.pins.cmdBlock := rfl
@[simp] theorem latchCommand_state (op : Op) (ksb : Ksb) : (latchCommand op ksb s).state = s.state := rfl
@[simp] theorem latchCommand_w (op : Op) (ksb : Ksb) : (latchCommand op ksb s).w = s.w := rfl
@[simp] theorem latchCommand_out (op : Op) (ksb : Ksb) : (latchCommand op ksb s).out = s.out := rfl
@[simp] theorem latchCommand_op (op : Op) (ksb : Ksb) : (latchCommand op ksb s).op = op := rfl
@[simp] theorem latchCommand_ksb (op : Op) (ksb : Ksb) : (latchCommand op ksb s).ksb = ksb := rfl
@[simp] theorem latchCommand_nk (op : Op) (ksb : Ksb) : (latchCommand op ksb s).nk = s.nk := rfl
@[simp] theorem latchCommand_nr (op : Op) (ksb : Ksb) : (latchCommand op ksb s).nr = s.nr := rfl
@[simp] theorem latchCommand_status (op : Op) (ksb : Ksb) : (latchCommand op ksb s).status = s.status := rfl
@[simp] theorem latchCommand_phase (op : Op) (ksb : Ksb) : (latchCommand op ksb s).phase = s.phase := rfl
@[simp] theorem latchCommand_kidx (op : Op) (ksb : Ksb) : (latchCommand op ksb s).kidx = s.kidx := rfl
@[simp] theorem latchCommand_upc (op : Op) (ksb : Ksb) : (latchCommand op ksb s).upc = s.upc := rfl
@[simp] theorem latchCommand_pins (op : Op) (ksb : Ksb) : (latchCommand op ksb s).pins = s.pins := rfl
@[simp] theorem latchCommand_plan (op : Op) (ksb : Ksb) : (latchCommand op ksb s).plan = s.plan := rfl
@[simp] theorem latchCommand_received (op : Op) (ksb : Ksb) : (latchCommand op ksb s).received = s.received := rfl
@[simp] theorem latchCommand_fnIn (op : Op) (ksb : Ksb) : (latchCommand op ksb s).fnIn = s.fnIn := rfl
@[simp] theorem latchCommand_fnOut (op : Op) (ksb : Ksb) : (latchCommand op ksb s).fnOut = s.fnOut := rfl
@[simp] theorem latchCommand_draws (op : Op) (ksb : Ksb) : (latchCommand op ksb s).draws = s.draws := rfl

/-! ### beginKexp: The rest of a valid ACCEPT (R201). -/

@[simp] theorem beginKexp_ksbW (k : KeySize) : (beginKexp k s).ksbW = s.ksbW := rfl
@[simp] theorem beginKexp_key (k : KeySize) : (beginKexp k s).key = s.key := rfl
@[simp] theorem beginKexp_blk (k : KeySize) : (beginKexp k s).blk = s.blk := rfl
@[simp] theorem beginKexp_state (k : KeySize) : (beginKexp k s).state = s.state := rfl
@[simp] theorem beginKexp_w (k : KeySize) : (beginKexp k s).w = s.w := rfl
@[simp] theorem beginKexp_out (k : KeySize) : (beginKexp k s).out = s.out := rfl
@[simp] theorem beginKexp_op (k : KeySize) : (beginKexp k s).op = s.op := rfl
@[simp] theorem beginKexp_ksb (k : KeySize) : (beginKexp k s).ksb = s.ksb := rfl
@[simp] theorem beginKexp_nk (k : KeySize) : (beginKexp k s).nk = BitVec.ofNat 4 k.words := rfl
@[simp] theorem beginKexp_nr (k : KeySize) : (beginKexp k s).nr = BitVec.ofNat 4 k.rounds := rfl
@[simp] theorem beginKexp_status (k : KeySize) : (beginKexp k s).status = .ok := rfl
@[simp] theorem beginKexp_phase (k : KeySize) : (beginKexp k s).phase = .kexp := rfl
@[simp] theorem beginKexp_kidx (k : KeySize) : (beginKexp k s).kidx = 0#6 := rfl
@[simp] theorem beginKexp_upc (k : KeySize) : (beginKexp k s).upc = s.upc := rfl
@[simp] theorem beginKexp_pins (k : KeySize) : (beginKexp k s).pins = s.pins := rfl
@[simp] theorem beginKexp_plan (k : KeySize) : (beginKexp k s).plan = s.plan := rfl
@[simp] theorem beginKexp_received (k : KeySize) : (beginKexp k s).received = s.received := rfl
@[simp] theorem beginKexp_fnIn (k : KeySize) : (beginKexp k s).fnIn = s.fnIn := rfl
@[simp] theorem beginKexp_fnOut (k : KeySize) : (beginKexp k s).fnOut = s.fnOut := rfl
@[simp] theorem beginKexp_draws (k : KeySize) : (beginKexp k s).draws = s.draws := rfl

/-! ### raiseInvalidKeySize: Taking the exception (R202, R222). -/

@[simp] theorem raiseInvalidKeySize_ksbW : (raiseInvalidKeySize s).ksbW = s.ksbW := rfl
@[simp] theorem raiseInvalidKeySize_key : (raiseInvalidKeySize s).key = s.key := rfl
@[simp] theorem raiseInvalidKeySize_blk : (raiseInvalidKeySize s).blk = s.blk := rfl
@[simp] theorem raiseInvalidKeySize_state : (raiseInvalidKeySize s).state = s.state := rfl
@[simp] theorem raiseInvalidKeySize_w : (raiseInvalidKeySize s).w = s.w := rfl
@[simp] theorem raiseInvalidKeySize_out : (raiseInvalidKeySize s).out = s.out := rfl
@[simp] theorem raiseInvalidKeySize_op : (raiseInvalidKeySize s).op = s.op := rfl
@[simp] theorem raiseInvalidKeySize_ksb : (raiseInvalidKeySize s).ksb = s.ksb := rfl
@[simp] theorem raiseInvalidKeySize_nk : (raiseInvalidKeySize s).nk = s.nk := rfl
@[simp] theorem raiseInvalidKeySize_nr : (raiseInvalidKeySize s).nr = s.nr := rfl
@[simp] theorem raiseInvalidKeySize_status : (raiseInvalidKeySize s).status = .invalidKeySize := rfl
@[simp] theorem raiseInvalidKeySize_phase : (raiseInvalidKeySize s).phase = .done := rfl
@[simp] theorem raiseInvalidKeySize_kidx : (raiseInvalidKeySize s).kidx = s.kidx := rfl
@[simp] theorem raiseInvalidKeySize_upc : (raiseInvalidKeySize s).upc = s.upc := rfl
@[simp] theorem raiseInvalidKeySize_pins : (raiseInvalidKeySize s).pins = s.pins := rfl
@[simp] theorem raiseInvalidKeySize_plan : (raiseInvalidKeySize s).plan = s.plan := rfl
@[simp] theorem raiseInvalidKeySize_received : (raiseInvalidKeySize s).received = s.received := rfl
@[simp] theorem raiseInvalidKeySize_fnIn : (raiseInvalidKeySize s).fnIn = s.fnIn := rfl
@[simp] theorem raiseInvalidKeySize_fnOut : (raiseInvalidKeySize s).fnOut = s.fnOut := rfl
@[simp] theorem raiseInvalidKeySize_draws : (raiseInvalidKeySize s).draws = s.draws := rfl

/-! ### respond: RESPOND (R204). -/

@[simp] theorem respond_ksbW : (respond s).ksbW = s.ksbW := rfl
@[simp] theorem respond_key : (respond s).key = s.key := rfl
@[simp] theorem respond_blk : (respond s).blk = s.blk := rfl
@[simp] theorem respond_state : (respond s).state = s.state := rfl
@[simp] theorem respond_w : (respond s).w = s.w := rfl
@[simp] theorem respond_out : (respond s).out = s.out := rfl
@[simp] theorem respond_op : (respond s).op = s.op := rfl
@[simp] theorem respond_ksb : (respond s).ksb = s.ksb := rfl
@[simp] theorem respond_nk : (respond s).nk = s.nk := rfl
@[simp] theorem respond_nr : (respond s).nr = s.nr := rfl
@[simp] theorem respond_status : (respond s).status = s.status := rfl
@[simp] theorem respond_phase : (respond s).phase = .idle := rfl
@[simp] theorem respond_kidx : (respond s).kidx = s.kidx := rfl
@[simp] theorem respond_upc : (respond s).upc = s.upc := rfl
@[simp] theorem respond_pins : (respond s).pins = s.pins := rfl
@[simp] theorem respond_plan : (respond s).plan = s.plan := rfl
@[simp] theorem respond_received : (respond s).received = s.received ++ [responseOf s.status s.out] := rfl
@[simp] theorem respond_fnIn : (respond s).fnIn = s.fnIn := rfl
@[simp] theorem respond_fnOut : (respond s).fnOut = s.fnOut := rfl
@[simp] theorem respond_draws : (respond s).draws = s.draws := rfl

/-! ### putState: The end of a round-transform uop (R174). -/

@[simp] theorem putState_ksbW (v : Block) : (putState v s).ksbW = s.ksbW := rfl
@[simp] theorem putState_key (v : Block) : (putState v s).key = s.key := rfl
@[simp] theorem putState_blk (v : Block) : (putState v s).blk = s.blk := rfl
@[simp] theorem putState_state (v : Block) : (putState v s).state = v := rfl
@[simp] theorem putState_w (v : Block) : (putState v s).w = s.w := rfl
@[simp] theorem putState_out (v : Block) : (putState v s).out = s.out := rfl
@[simp] theorem putState_op (v : Block) : (putState v s).op = s.op := rfl
@[simp] theorem putState_ksb (v : Block) : (putState v s).ksb = s.ksb := rfl
@[simp] theorem putState_nk (v : Block) : (putState v s).nk = s.nk := rfl
@[simp] theorem putState_nr (v : Block) : (putState v s).nr = s.nr := rfl
@[simp] theorem putState_status (v : Block) : (putState v s).status = s.status := rfl
@[simp] theorem putState_phase (v : Block) : (putState v s).phase = s.phase := rfl
@[simp] theorem putState_kidx (v : Block) : (putState v s).kidx = s.kidx := rfl
@[simp] theorem putState_upc (v : Block) : (putState v s).upc = s.upc + 1#6 := rfl
@[simp] theorem putState_pins (v : Block) : (putState v s).pins = s.pins := rfl
@[simp] theorem putState_plan (v : Block) : (putState v s).plan = s.plan := rfl
@[simp] theorem putState_received (v : Block) : (putState v s).received = s.received := rfl
@[simp] theorem putState_fnIn (v : Block) : (putState v s).fnIn = s.fnIn := rfl
@[simp] theorem putState_fnOut (v : Block) : (putState v s).fnOut = s.fnOut := rfl
@[simp] theorem putState_draws (v : Block) : (putState v s).draws = s.draws := rfl

/-! ### putOut: STORESTATE (R171). -/

@[simp] theorem putOut_ksbW : (putOut s).ksbW = s.ksbW := rfl
@[simp] theorem putOut_key : (putOut s).key = s.key := rfl
@[simp] theorem putOut_blk : (putOut s).blk = s.blk := rfl
@[simp] theorem putOut_state : (putOut s).state = s.state := rfl
@[simp] theorem putOut_w : (putOut s).w = s.w := rfl
@[simp] theorem putOut_out : (putOut s).out = s.state := rfl
@[simp] theorem putOut_op : (putOut s).op = s.op := rfl
@[simp] theorem putOut_ksb : (putOut s).ksb = s.ksb := rfl
@[simp] theorem putOut_nk : (putOut s).nk = s.nk := rfl
@[simp] theorem putOut_nr : (putOut s).nr = s.nr := rfl
@[simp] theorem putOut_status : (putOut s).status = s.status := rfl
@[simp] theorem putOut_phase : (putOut s).phase = .done := rfl
@[simp] theorem putOut_kidx : (putOut s).kidx = s.kidx := rfl
@[simp] theorem putOut_upc : (putOut s).upc = s.upc + 1#6 := rfl
@[simp] theorem putOut_pins : (putOut s).pins = s.pins := rfl
@[simp] theorem putOut_plan : (putOut s).plan = s.plan := rfl
@[simp] theorem putOut_received : (putOut s).received = s.received := rfl
@[simp] theorem putOut_fnIn : (putOut s).fnIn = s.fnIn := rfl
@[simp] theorem putOut_fnOut : (putOut s).fnOut = s.fnOut := rfl
@[simp] theorem putOut_draws : (putOut s).draws = s.draws := rfl

/-! ### putWord: The common writes of a KEXP uop (R135, R136). -/

@[simp] theorem putWord_ksbW (i : Nat) (h : i < 60) (v : Word) : (putWord i h v s).ksbW = s.ksbW := rfl
@[simp] theorem putWord_key (i : Nat) (h : i < 60) (v : Word) : (putWord i h v s).key = s.key := rfl
@[simp] theorem putWord_blk (i : Nat) (h : i < 60) (v : Word) : (putWord i h v s).blk = s.blk := rfl
@[simp] theorem putWord_state (i : Nat) (h : i < 60) (v : Word) : (putWord i h v s).state = s.state := rfl
@[simp] theorem putWord_w (i : Nat) (h : i < 60) (v : Word) : (putWord i h v s).w = s.w.set i v h := rfl
@[simp] theorem putWord_out (i : Nat) (h : i < 60) (v : Word) : (putWord i h v s).out = s.out := rfl
@[simp] theorem putWord_op (i : Nat) (h : i < 60) (v : Word) : (putWord i h v s).op = s.op := rfl
@[simp] theorem putWord_ksb (i : Nat) (h : i < 60) (v : Word) : (putWord i h v s).ksb = s.ksb := rfl
@[simp] theorem putWord_nk (i : Nat) (h : i < 60) (v : Word) : (putWord i h v s).nk = s.nk := rfl
@[simp] theorem putWord_nr (i : Nat) (h : i < 60) (v : Word) : (putWord i h v s).nr = s.nr := rfl
@[simp] theorem putWord_status (i : Nat) (h : i < 60) (v : Word) : (putWord i h v s).status = s.status := rfl
@[simp] theorem putWord_phase (i : Nat) (h : i < 60) (v : Word) : (putWord i h v s).phase = s.phase := rfl
@[simp] theorem putWord_kidx (i : Nat) (h : i < 60) (v : Word) : (putWord i h v s).kidx = s.kidx + 1#6 := rfl
@[simp] theorem putWord_upc (i : Nat) (h : i < 60) (v : Word) : (putWord i h v s).upc = s.upc := rfl
@[simp] theorem putWord_pins (i : Nat) (h : i < 60) (v : Word) : (putWord i h v s).pins = s.pins := rfl
@[simp] theorem putWord_plan (i : Nat) (h : i < 60) (v : Word) : (putWord i h v s).plan = s.plan := rfl
@[simp] theorem putWord_received (i : Nat) (h : i < 60) (v : Word) : (putWord i h v s).received = s.received := rfl
@[simp] theorem putWord_fnIn (i : Nat) (h : i < 60) (v : Word) : (putWord i h v s).fnIn = s.fnIn := rfl
@[simp] theorem putWord_fnOut (i : Nat) (h : i < 60) (v : Word) : (putWord i h v s).fnOut = s.fnOut := rfl
@[simp] theorem putWord_draws (i : Nat) (h : i < 60) (v : Word) : (putWord i h v s).draws = s.draws := rfl

/-! ### beginRun: The last KEXP step (R136). -/

@[simp] theorem beginRun_ksbW : (beginRun s).ksbW = s.ksbW := rfl
@[simp] theorem beginRun_key : (beginRun s).key = s.key := rfl
@[simp] theorem beginRun_blk : (beginRun s).blk = s.blk := rfl
@[simp] theorem beginRun_state : (beginRun s).state = s.state := rfl
@[simp] theorem beginRun_w : (beginRun s).w = s.w := rfl
@[simp] theorem beginRun_out : (beginRun s).out = s.out := rfl
@[simp] theorem beginRun_op : (beginRun s).op = s.op := rfl
@[simp] theorem beginRun_ksb : (beginRun s).ksb = s.ksb := rfl
@[simp] theorem beginRun_nk : (beginRun s).nk = s.nk := rfl
@[simp] theorem beginRun_nr : (beginRun s).nr = s.nr := rfl
@[simp] theorem beginRun_status : (beginRun s).status = s.status := rfl
@[simp] theorem beginRun_phase : (beginRun s).phase = .run := rfl
@[simp] theorem beginRun_kidx : (beginRun s).kidx = s.kidx := rfl
@[simp] theorem beginRun_upc : (beginRun s).upc = 0#6 := rfl
@[simp] theorem beginRun_pins : (beginRun s).pins = s.pins := rfl
@[simp] theorem beginRun_plan : (beginRun s).plan = s.plan := rfl
@[simp] theorem beginRun_received : (beginRun s).received = s.received := rfl
@[simp] theorem beginRun_fnIn : (beginRun s).fnIn = s.fnIn := rfl
@[simp] theorem beginRun_fnOut : (beginRun s).fnOut = s.fnOut := rfl
@[simp] theorem beginRun_draws : (beginRun s).draws = s.draws := rfl

/-! ### driveFn: A function unit's result (R84). -/

@[simp] theorem driveFn_ksbW (r : FnResult) : (driveFn r s).ksbW = s.ksbW := rfl
@[simp] theorem driveFn_key (r : FnResult) : (driveFn r s).key = s.key := rfl
@[simp] theorem driveFn_blk (r : FnResult) : (driveFn r s).blk = s.blk := rfl
@[simp] theorem driveFn_state (r : FnResult) : (driveFn r s).state = s.state := rfl
@[simp] theorem driveFn_w (r : FnResult) : (driveFn r s).w = s.w := rfl
@[simp] theorem driveFn_out (r : FnResult) : (driveFn r s).out = s.out := rfl
@[simp] theorem driveFn_op (r : FnResult) : (driveFn r s).op = s.op := rfl
@[simp] theorem driveFn_ksb (r : FnResult) : (driveFn r s).ksb = s.ksb := rfl
@[simp] theorem driveFn_nk (r : FnResult) : (driveFn r s).nk = s.nk := rfl
@[simp] theorem driveFn_nr (r : FnResult) : (driveFn r s).nr = s.nr := rfl
@[simp] theorem driveFn_status (r : FnResult) : (driveFn r s).status = s.status := rfl
@[simp] theorem driveFn_phase (r : FnResult) : (driveFn r s).phase = s.phase := rfl
@[simp] theorem driveFn_kidx (r : FnResult) : (driveFn r s).kidx = s.kidx := rfl
@[simp] theorem driveFn_upc (r : FnResult) : (driveFn r s).upc = s.upc := rfl
@[simp] theorem driveFn_pins (r : FnResult) : (driveFn r s).pins = s.pins := rfl
@[simp] theorem driveFn_plan (r : FnResult) : (driveFn r s).plan = s.plan := rfl
@[simp] theorem driveFn_received (r : FnResult) : (driveFn r s).received = s.received := rfl
@[simp] theorem driveFn_fnIn (r : FnResult) : (driveFn r s).fnIn = s.fnIn := rfl
@[simp] theorem driveFn_fnOut (r : FnResult) : (driveFn r s).fnOut = r := rfl
@[simp] theorem driveFn_draws (r : FnResult) : (driveFn r s).draws = s.draws := rfl

/-! ### clearFn: The operand of a function unit is taken. -/

@[simp] theorem clearFn_ksbW : (clearFn s).ksbW = s.ksbW := rfl
@[simp] theorem clearFn_key : (clearFn s).key = s.key := rfl
@[simp] theorem clearFn_blk : (clearFn s).blk = s.blk := rfl
@[simp] theorem clearFn_state : (clearFn s).state = s.state := rfl
@[simp] theorem clearFn_w : (clearFn s).w = s.w := rfl
@[simp] theorem clearFn_out : (clearFn s).out = s.out := rfl
@[simp] theorem clearFn_op : (clearFn s).op = s.op := rfl
@[simp] theorem clearFn_ksb : (clearFn s).ksb = s.ksb := rfl
@[simp] theorem clearFn_nk : (clearFn s).nk = s.nk := rfl
@[simp] theorem clearFn_nr : (clearFn s).nr = s.nr := rfl
@[simp] theorem clearFn_status : (clearFn s).status = s.status := rfl
@[simp] theorem clearFn_phase : (clearFn s).phase = s.phase := rfl
@[simp] theorem clearFn_kidx : (clearFn s).kidx = s.kidx := rfl
@[simp] theorem clearFn_upc : (clearFn s).upc = s.upc := rfl
@[simp] theorem clearFn_pins : (clearFn s).pins = s.pins := rfl
@[simp] theorem clearFn_plan : (clearFn s).plan = s.plan := rfl
@[simp] theorem clearFn_received : (clearFn s).received = s.received := rfl
@[simp] theorem clearFn_fnIn : (clearFn s).fnIn = none := rfl
@[simp] theorem clearFn_fnOut : (clearFn s).fnOut = s.fnOut := rfl
@[simp] theorem clearFn_draws : (clearFn s).draws = s.draws := rfl

/-! ### resetRegisters: RESET (R250). -/

@[simp] theorem resetRegisters_ksbW : (resetRegisters s).ksbW = s.ksbW := rfl
@[simp] theorem resetRegisters_key : (resetRegisters s).key = Config.freeKey s.draws := rfl
@[simp] theorem resetRegisters_blk : (resetRegisters s).blk = Config.freeBlk s.draws := rfl
@[simp] theorem resetRegisters_state : (resetRegisters s).state = Config.freeState s.draws := rfl
@[simp] theorem resetRegisters_w : (resetRegisters s).w = Config.freeW s.draws := rfl
@[simp] theorem resetRegisters_out : (resetRegisters s).out = Config.freeOut s.draws := rfl
@[simp] theorem resetRegisters_op : (resetRegisters s).op = Config.freeOp s.draws := rfl
@[simp] theorem resetRegisters_ksb : (resetRegisters s).ksb = (Config.freeKsb s.ksbW s.draws).toNat := rfl
@[simp] theorem resetRegisters_nk : (resetRegisters s).nk = Config.freeNk s.draws := rfl
@[simp] theorem resetRegisters_nr : (resetRegisters s).nr = Config.freeNr s.draws := rfl
@[simp] theorem resetRegisters_status : (resetRegisters s).status = Config.freeStatus s.draws := rfl
@[simp] theorem resetRegisters_phase : (resetRegisters s).phase = .idle := rfl
@[simp] theorem resetRegisters_kidx : (resetRegisters s).kidx = Config.freeKidx s.draws := rfl
@[simp] theorem resetRegisters_upc : (resetRegisters s).upc = Config.freeUpc s.draws := rfl
@[simp] theorem resetRegisters_pins : (resetRegisters s).pins = s.pins := rfl
@[simp] theorem resetRegisters_plan : (resetRegisters s).plan = s.plan := rfl
@[simp] theorem resetRegisters_received : (resetRegisters s).received = s.received := rfl
@[simp] theorem resetRegisters_fnIn : (resetRegisters s).fnIn = s.fnIn := rfl
@[simp] theorem resetRegisters_fnOut : (resetRegisters s).fnOut = s.fnOut := rfl
@[simp] theorem resetRegisters_draws : (resetRegisters s).draws = s.draws + 1 := rfl

/-! ### hostTurn: only the wires and the plan change. -/

@[simp] theorem hostTurn_ksbW : (hostTurn s).ksbW = s.ksbW := by
  unfold hostTurn; split <;> rfl
@[simp] theorem hostTurn_key : (hostTurn s).key = s.key := by
  unfold hostTurn; split <;> rfl
@[simp] theorem hostTurn_blk : (hostTurn s).blk = s.blk := by
  unfold hostTurn; split <;> rfl
@[simp] theorem hostTurn_state : (hostTurn s).state = s.state := by
  unfold hostTurn; split <;> rfl
@[simp] theorem hostTurn_w : (hostTurn s).w = s.w := by
  unfold hostTurn; split <;> rfl
@[simp] theorem hostTurn_out : (hostTurn s).out = s.out := by
  unfold hostTurn; split <;> rfl
@[simp] theorem hostTurn_op : (hostTurn s).op = s.op := by
  unfold hostTurn; split <;> rfl
@[simp] theorem hostTurn_ksb : (hostTurn s).ksb = s.ksb := by
  unfold hostTurn; split <;> rfl
@[simp] theorem hostTurn_nk : (hostTurn s).nk = s.nk := by
  unfold hostTurn; split <;> rfl
@[simp] theorem hostTurn_nr : (hostTurn s).nr = s.nr := by
  unfold hostTurn; split <;> rfl
@[simp] theorem hostTurn_status : (hostTurn s).status = s.status := by
  unfold hostTurn; split <;> rfl
@[simp] theorem hostTurn_phase : (hostTurn s).phase = s.phase := by
  unfold hostTurn; split <;> rfl
@[simp] theorem hostTurn_kidx : (hostTurn s).kidx = s.kidx := by
  unfold hostTurn; split <;> rfl
@[simp] theorem hostTurn_upc : (hostTurn s).upc = s.upc := by
  unfold hostTurn; split <;> rfl
@[simp] theorem hostTurn_received : (hostTurn s).received = s.received := by
  unfold hostTurn; split <;> rfl
@[simp] theorem hostTurn_fnIn : (hostTurn s).fnIn = s.fnIn := by
  unfold hostTurn; split <;> rfl
@[simp] theorem hostTurn_fnOut : (hostTurn s).fnOut = s.fnOut := by
  unfold hostTurn; split <;> rfl
@[simp] theorem hostTurn_draws : (hostTurn s).draws = s.draws := by
  unfold hostTurn; split <;> rfl

@[simp] theorem hostTurn_of_plan_nil (h : s.plan = []) : hostTurn s = s := by
  simp [hostTurn, h]

@[simp] theorem hostTurn_of_plan_cons (p : Pins) (ps : List Pins) (h : s.plan = p :: ps) :
    hostTurn s = { s with pins := p, plan := ps } := by
  simp [hostTurn, h]

end Sys2Proof.Machine
end

