-- ==== Sys2Proof/Laws/Step.lean ====
section
/-!
SUPPORT. Everything one step can do, said once (`step_next_cases`), from which the statements about every step follow.
-/
namespace Sys2Proof.Machine

/-- A uop that the decoder accepts reads back as itself. -/
theorem decode_encode_uop {w : Nat} {i j : Instr} (hu : ∃ word, encode w i = .uop word)
    (h : decode (encode w i) = .ok j) :
    j = i := by
  obtain ⟨word, hw⟩ := hu
  cases i <;> simp only [encode, cmdWord, reduceCtorEq] at hw <;>
    simp only [encode, decode_uopWord, decodeUopFields, plainUop] at h <;>
    first
    | (simp at h; exact h.symm)
    | skip
  · rename_i round
    have hlow : (0#2 ++ round : BitVec 6).extractLsb' 0 4 = round := extract_low 0#2 round
    split at h
    · rw [hlow] at h; exact (Except.ok.inj h).symm
    · cases h
  · split at h
    · exact (Except.ok.inj h).symm
    · cases h
  · split at h
    · exact (Except.ok.inj h).symm
    · cases h

/-- The uop of KEXP has a uop word. -/
theorem kexpUop_word (w : Nat) (s : State) : ∃ word, encode w (kexpUop s) = .uop word := by
  unfold kexpUop; split <;> exact ⟨_, rfl⟩

/-- The uop of RUN has a uop word. -/
theorem runUop_word (w : Nat) {s : State} {i : Instr} (h : runUop s = some i) : ∃ word, encode w i = .uop word := by
  simp only [runUop, uopEnc, uopDec] at h
  repeat' split at h
  all_goals first
    | cases h; exact ⟨_, rfl⟩
    | cases h

/-- `afterRun` answers a next state exactly when the instruction does. -/
theorem afterRun_eq_next {o : Host.Outcome State Fault Refusal} {t : State} (h : afterRun o = .next t) :
    ∃ u, o = .next u ∧ t = hostTurn (clearFn u) := by
  cases o with
  | next u => exact ⟨u, rfl, (Host.Outcome.next.inj h).symm⟩
  | fault f => cases h
  | refused r => cases h

/-- An operand on a function unit's bus ends in a result on its result bus and nothing else. -/
theorem exec_decodeFn {bus : FnBus} {i : Instr} (h : decodeFn bus = .ok i) (s : State) :
    ∃ r, exec i s = .next (driveFn r s) := by
  cases bus with
  | rcon bus =>
    simp only [decodeFn] at h
    split at h
    · rename_i hj
      cases h
      exact ⟨.byte (rcon bus.toNat hj), by simp [exec, execRcon, hj]⟩
    · cases h
  | _ => cases h; exact ⟨_, rfl⟩

/-- Everything a step can do when it answers a next state. -/
inductive StepNext (s : State) : State → Prop where
  | reset (hr : s.pins.rst = true) : StepNext s (hostTurn (resetRegisters s))
  | fn (hr : s.pins.rst = false) (bus : FnBus) (hf : s.fnIn = some bus) (r : FnResult) :
      StepNext s (hostTurn (clearFn (driveFn r s)))
  | idleWait (hr : s.pins.rst = false) (hf : s.fnIn = none) (hp : s.phase = .idle) (hv : s.pins.cmdValid = false) :
      StepNext s (hostTurn s)
  | accept (hr : s.pins.rst = false) (hf : s.fnIn = none) (hp : s.phase = .idle) (hv : s.pins.cmdValid = true) :
      StepNext s (hostTurn (clearFn (accept (opOfCode s.pins.cmdOp) (portKsb s) s)))
  | kexp (hr : s.pins.rst = false) (hf : s.fnIn = none) (hp : s.phase = .kexp) (u : State)
      (hu : exec (kexpUop s) s = .next u) : StepNext s (hostTurn (clearFn u))
  | run (hr : s.pins.rst = false) (hf : s.fnIn = none) (hp : s.phase = .run) (i : Instr) (hi : runUop s = some i)
      (u : State) (hu : exec i s = .next u) : StepNext s (hostTurn (clearFn u))
  | respond (hr : s.pins.rst = false) (hf : s.fnIn = none) (hp : s.phase = .done) (hy : s.pins.rspReady = true) :
      StepNext s (hostTurn (respond s))
  | doneWait (hr : s.pins.rst = false) (hf : s.fnIn = none) (hp : s.phase = .done) (hy : s.pins.rspReady = false) :
      StepNext s (hostTurn s)

/-- The inversion of `step`. -/
theorem step_next_cases {s t : State} (h : step s = .next t) : StepNext s t := by
  by_cases hr : s.pins.rst = true
  · simp only [step, action, hr, if_true] at h
    cases h; exact .reset hr
  · have hr' : s.pins.rst = false := by simpa using hr
    cases hf : s.fnIn with
    | some bus =>
      simp only [step, action, hr', hf, decode] at h
      cases hd : decodeFn bus with
      | error e => simp [hd] at h
      | ok i =>
        obtain ⟨r, he⟩ := exec_decodeFn hd s
        simp only [hd, he, Bool.false_eq_true, if_false, afterRun] at h
        cases h
        exact .fn hr' bus hf r
    | none =>
      cases hp : s.phase with
      | idle =>
        cases hv : s.pins.cmdValid with
        | false =>
          simp [step, action, hr', hf, hp, hv] at h
          subst h; exact .idleWait hr' hf hp hv
        | true =>
          simp [step, action, hr', hf, hp, hv, cmdWord, decode, exec_decode_port, afterRun] at h
          subst h; exact .accept hr' hf hp hv
      | kexp =>
        simp only [step, action, hr', hf, hp, Bool.false_eq_true, if_false] at h
        cases hd : decode (encode s.ksbW (kexpUop s)) with
        | error e => simp [hd] at h
        | ok j =>
          obtain rfl := decode_encode_uop (kexpUop_word s.ksbW s) hd
          simp only [hd] at h
          obtain ⟨u, hu, rfl⟩ := afterRun_eq_next h
          exact .kexp hr' hf hp u hu
      | run =>
        cases hi : runUop s with
        | none => simp [step, action, hr', hf, hp, hi] at h
        | some i =>
          simp only [step, action, hr', hf, hp, hi, Bool.false_eq_true, if_false] at h
          cases hd : decode (encode s.ksbW i) with
          | error e => simp [hd] at h
          | ok j =>
            obtain rfl := decode_encode_uop (runUop_word s.ksbW hi) hd
            simp only [hd] at h
            obtain ⟨u, hu, rfl⟩ := afterRun_eq_next h
            exact .run hr' hf hp j hi u hu
      | done =>
        cases hy : s.pins.rspReady with
        | false =>
          simp [step, action, hr', hf, hp, hy] at h
          subst h; exact .doneWait hr' hf hp hy
        | true =>
          simp [step, action, hr', hf, hp, hy] at h
          subst h; exact .respond hr' hf hp hy

/-! ### What the uops the sequencer issues can do -/

/-- NR is legal wherever RUN has a uop (R172, R173). -/
theorem legalRounds_of_runUop {s : State} {i : Instr} (hi : runUop s = some i) :
    legalRounds s.nr.toNat = true := by
  simp only [runUop, uopEnc, uopDec] at hi
  revert hi
  cases legalRounds s.nr.toNat <;> cases s.op <;> simp

/-- A RUN step either stores OUT, at the last position and only there, or writes the State; UPC counts either way
(R171, R174). -/
theorem runUop_next {s : State} {i : Instr} {u : State} (hi : runUop s = some i) (hu : exec i s = .next u) :
    (s.upc.toNat = 4 * s.nr.toNat + 1 ∧ u = putOut s) ∨ (s.upc.toNat ≤ 4 * s.nr.toNat ∧ ∃ v, u = putState v s) := by
  have hl := legalRounds_of_runUop hi
  have hn : 10 ≤ s.nr.toNat := by simp [legalRounds] at hl; omega
  simp only [runUop, uopEnc, uopDec] at hi
  repeat' split at hi
  all_goals first
    | (cases hi; done)
    | (cases hi
       simp only [exec, execLoadstate, execStorestate, execSubbytes, execShiftrows, execMixcolumns, execInvsubbytes,
         execInvshiftrows, execInvmixcolumns, execAddroundkey] at hu
       first
       | (cases hu; right; exact ⟨by omega, _, rfl⟩)
       | (cases hu; left; exact ⟨by omega, rfl⟩)
       | (split at hu
          · cases hu; right; exact ⟨by omega, _, rfl⟩
          · cases hu))

/-- A KEXP step writes word KIDX and counts; at the last word, and only there, it begins RUN (R135, R136, R139). -/
theorem kexpUop_next {s u : State} (hu : exec (kexpUop s) s = .next u) :
    ∃ (k : KeySize) (h : s.kidx.toNat < 60) (v : Word),
      keySizeOf s.nk s.nr = some k ∧ s.kidx.toNat < k.scheduleWords ∧
      ((s.kidx.toNat ≠ k.scheduleWords - 1 ∧ u = putWord s.kidx.toNat h v s) ∨
        (s.kidx.toNat = k.scheduleWords - 1 ∧ u = beginRun (putWord s.kidx.toNat h v s))) := by
  unfold kexpUop at hu
  split at hu
  · simp only [exec, execKexpCopy] at hu
    split at hu
    · cases hu
    · rename_i k hk
      split at hu
      · rename_i h
        cases hu
        have hb := schedule_bounds k
        have hlast : k.words < k.scheduleWords - 1 := by cases k <;> decide
        exact ⟨k, by omega, _, hk, by omega, Or.inl ⟨by omega, rfl⟩⟩
      · cases hu
  · simp only [exec, execKexpWord] at hu
    split at hu
    · cases hu
    · rename_i k hk
      split at hu
      · rename_i h
        have hb := schedule_bounds k
        split at hu
        · rename_i hl
          cases hu
          exact ⟨k, by omega, _, hk, h.2, Or.inr ⟨hl, rfl⟩⟩
        · rename_i hl
          cases hu
          exact ⟨k, by omega, _, hk, h.2, Or.inl ⟨hl, rfl⟩⟩
      · cases hu

/-- ACCEPT in IDLE either begins the key expansion or takes InvalidKeySize (R201, R202). -/
theorem accept_cases {s : State} (hp : s.phase = .idle) (op : Op) (ksb : Ksb) :
    (∃ k, decodeKsb ksb = some k ∧ accept op ksb s = beginKexp k (latchCommand op ksb s)) ∨
      (decodeKsb ksb = none ∧ accept op ksb s = raiseInvalidKeySize (latchCommand op ksb s)) := by
  cases h : decodeKsb ksb with
  | some k => exact .inl ⟨k, rfl, accept_valid hp op h⟩
  | none => exact .inr ⟨rfl, accept_invalid hp op h⟩

end Sys2Proof.Machine
end

