-- ==== Sys2Proof/Tests/Slice0.lean ====
section
/-!
SUPPORT. The model's own tests. Expected results are the spec's: the words of spec/30_encoding.md R83 to R86 and the
worked examples of spec/95_test_vectors.md and of the rules named. Then the witnesses: a state and operands that meet
the hypotheses of each statement of Certificates/Slice0/Obligations.lean.
-/
namespace Sys2Proof.Tests

open Sys2Proof Sys2Proof.Machine

/-! ### Well-formedness: an ill-formed term for each check (R86, R88) -/

theorem test_illFormed_rcon_low : (Instr.rcon 0#4).wellFormed 32 = false := by decide
theorem test_illFormed_rcon_high : (Instr.rcon 11#4).wellFormed 32 = false := by decide
theorem test_illFormed_round : (Instr.addroundkey 15#4).wellFormed 32 = false := by decide
theorem test_illFormed_copy : (Instr.kexpCopy 8#6).wellFormed 32 = false := by decide
theorem test_illFormed_word_low : (Instr.kexpWord 3#6).wellFormed 32 = false := by decide
theorem test_illFormed_word_high : (Instr.kexpWord 60#6).wellFormed 32 = false := by decide
theorem test_illFormed_encrypt : (Instr.encrypt 128).wellFormed 32 = false := by decide
theorem test_illFormed_decrypt : (Instr.decrypt 256).wellFormed 32 = false := by decide
theorem test_illFormed_narrow : (Instr.encrypt 512).wellFormed 9 = false := by decide
theorem test_illFormed_exact_narrow : Instr.encrypt256.wellFormed 8 = false := by decide

/-! ### Decoding: a word of each row, written out from its encoding (R83, R84, R86) -/

theorem test_decode_sbox : decode (.fn (.sbox 0x53#8)) = .ok (.sbox 0x53#8) := rfl
theorem test_decode_invsbox : decode (.fn (.invsbox 0xed#8)) = .ok (.invsbox 0xed#8) := rfl
theorem test_decode_xtime : decode (.fn (.xtime 0x80#8)) = .ok (.xtime 0x80#8) := rfl
theorem test_decode_gmul : decode (.fn (.gmul 0b0101011100010011#16)) = .ok (.gmul 0x57#8 0x13#8) := rfl
theorem test_decode_rotword :
    decode (.fn (.rotword 0x09cf4f3c#32)) = .ok (.rotword 0x09#8 0xcf#8 0x4f#8 0x3c#8) := rfl
theorem test_decode_subword :
    decode (.fn (.subword 0x53caff10#32)) = .ok (.subword 0x53#8 0xca#8 0xff#8 0x10#8) := rfl
theorem test_decode_rcon : decode (.fn (.rcon 0b1010#4)) = .ok (.rcon 10#4) := rfl
theorem test_decode_loadstate : decode (.uop 0b0000000000#10) = .ok .loadstate := rfl
theorem test_decode_storestate : decode (.uop 0b0001000000#10) = .ok .storestate := rfl
theorem test_decode_addroundkey : decode (.uop 0b0010001010#10) = .ok (.addroundkey 10#4) := rfl
theorem test_decode_subbytes : decode (.uop 0b0011000000#10) = .ok .subbytes := rfl
theorem test_decode_shiftrows : decode (.uop 0b0100000000#10) = .ok .shiftrows := rfl
theorem test_decode_mixcolumns : decode (.uop 0b0101000000#10) = .ok .mixcolumns := rfl
theorem test_decode_invsubbytes : decode (.uop 0b0110000000#10) = .ok .invsubbytes := rfl
theorem test_decode_invshiftrows : decode (.uop 0b0111000000#10) = .ok .invshiftrows := rfl
theorem test_decode_invmixcolumns : decode (.uop 0b1000000000#10) = .ok .invmixcolumns := rfl
theorem test_decode_kexpCopy : decode (.uop 0b1001000111#10) = .ok (.kexpCopy 7#6) := rfl
theorem test_decode_kexpWord : decode (.uop 0b1010101011#10) = .ok (.kexpWord 43#6) := rfl
theorem test_decode_encrypt128 : decode (.cmd 32 0x000000080#33) = .ok .encrypt128 := rfl
theorem test_decode_encrypt192 : decode (.cmd 32 0x0000000C0#33) = .ok .encrypt192 := rfl
theorem test_decode_encrypt256 : decode (.cmd 32 0x000000100#33) = .ok .encrypt256 := rfl
theorem test_decode_decrypt128 : decode (.cmd 32 0x100000080#33) = .ok .decrypt128 := rfl
theorem test_decode_decrypt192 : decode (.cmd 32 0x1000000C0#33) = .ok .decrypt192 := rfl
theorem test_decode_decrypt256 : decode (.cmd 32 0x100000100#33) = .ok .decrypt256 := rfl
theorem test_decode_encrypt : decode (.cmd 32 0x000000064#33) = .ok (.encrypt 100) := rfl
theorem test_decode_decrypt : decode (.cmd 32 0x1FFFFFF80#33) = .ok (.decrypt 0xFFFFFF80) := rfl
theorem test_decode_narrow : decode (.cmd 9 0b1100000000#10) = .ok .decrypt256 := rfl
theorem test_decode_reserved : decode (.uop 0b1011000000#10) = .error (.reservedUsel 0xB#4) := rfl
theorem test_decode_word_index_zero : decode (.uop 0b1010000000#10) = .error (.badKexpIndex 0xA#4 0#6) := rfl

/-! ### Small states and what is read of a result -/

/-- Right after reset but for the State. -/
def withState (v : BitVec 128) : State := { State.reset with state := busBytes 16 v }

/-- A core with the pair of a key size in NK and NR, and the key 000102..1f. -/
def keyed (k : KeySize) : State :=
  { State.reset with
    nk := BitVec.ofNat 4 k.words, nr := BitVec.ofNat 4 k.rounds
    key := busBytes 32 0x000102030405060708090a0b0c0d0e0f101112131415161718191a1b1c1d1e1f#256 }

/-- The same with one more word in W. -/
def withWord (i : Nat) (v : BitVec 32) (s : State) : State := { s with w := s.w.setIfInBounds i (busBytes 4 v) }

/-- A core whose command port carries the key 000102..1f and the block 00112233..ff. -/
def offering (op : BitVec 1) (ksb : Ksb) : State :=
  { State.reset with
    pins := { Pins.quiet with
      cmdValid := true, cmdOp := op, cmdKsb := ksb
      cmdKey := 0x000102030405060708090a0b0c0d0e0f101112131415161718191a1b1c1d1e1f#256
      cmdBlock := 0x00112233445566778899aabbccddeeff#128 } }

/-- One value read from a next state; nothing where the outcome is none. -/
def after {α : Type} (o : Host.Outcome State Fault Refusal) (f : State → α) : Option α :=
  match o with
  | .next t => some (f t)
  | .fault _ => none
  | .refused _ => none

/-- STATE as a 128-bit numeral. -/
def stateHex (s : State) : BitVec 128 := busOf s.state

/-- Word `i` of W as a 32-bit numeral. -/
def wordHex (i : Nat) (s : State) : Option (BitVec 32) := (s.w[i]?).map fun v => busOf v

/-- What a function unit drove, a byte as itself. -/
def fnByte (s : State) : Option Byte :=
  match s.fnOut with
  | .byte b => some b
  | .word _ => none
  | .idle => none

/-- What a function unit drove, a word as a numeral. -/
def fnWord (s : State) : Option (BitVec 32) :=
  match s.fnOut with
  | .word w => some (busOf w)
  | .byte _ => none
  | .idle => none

/-! ### Function units (95_test_vectors.md 5.1 to 5.3) -/

theorem test_sbox : after (exec (.sbox 0x53#8) .reset) fnByte = some (some 0xed#8) := by decide
theorem test_sbox_last : after (exec (.sbox 0xff#8) .reset) fnByte = some (some 0x16#8) := by decide
theorem test_invsbox : after (exec (.invsbox 0xed#8) .reset) fnByte = some (some 0x53#8) := by decide
theorem test_invsbox_63 : after (exec (.invsbox 0x63#8) .reset) fnByte = some (some 0x00#8) := by decide
theorem test_xtime_reduces : after (exec (.xtime 0x80#8) .reset) fnByte = some (some 0x1b#8) := by decide
theorem test_xtime_plain : after (exec (.xtime 0x7f#8) .reset) fnByte = some (some 0xfe#8) := by decide
theorem test_gmul : after (exec (.gmul 0x57#8 0x83#8) .reset) fnByte = some (some 0xc1#8) := by decide
theorem test_gmul_largest : after (exec (.gmul 0xff#8 0xff#8) .reset) fnByte = some (some 0x13#8) := by decide
theorem test_rotword :
    after (exec (.rotword 0x01#8 0x02#8 0x03#8 0x04#8) .reset) fnWord = some (some 0x02030401#32) := by decide
theorem test_subword :
    after (exec (.subword 0x53#8 0xca#8 0xff#8 0x10#8) .reset) fnWord = some (some 0xed7416ca#32) := by decide
theorem test_rcon_ten : after (exec (.rcon 10#4) .reset) fnByte = some (some 0x36#8) := by decide
theorem test_rcon_zero : exec (.rcon 0#4) .reset = .refused (.rconIndex 0#4) := rfl

/-! ### Key expansion (R135, R136; 95_test_vectors.md 3.1 to 3.3, 5.3) -/

theorem test_kexpCopy :
    after (exec (.kexpCopy 2#6) (keyed .aes128)) (fun t => (wordHex 2 t, t.kidx)) =
      some (some 0x08090a0b#32, 1#6) := by decide
theorem test_kexpCopy_out_of_range : exec (.kexpCopy 6#6) (keyed .aes192) = .refused .argumentOutOfRange := rfl
theorem test_kexpWord_first_case :
    after (exec (.kexpWord 4#6) (withWord 0 0x00010203#32 (withWord 3 0x0c0d0e0f#32 (keyed .aes128))))
      (fun t => (wordHex 4 t, t.phase)) = some (some 0xd6aa74fd#32, .idle) := by decide
theorem test_kexpWord_last :
    after (exec (.kexpWord 43#6) (withWord 39 0xbe2c974e#32 (withWord 42 0xf307a78b#32 (keyed .aes128))))
      (fun t => (wordHex 43 t, t.phase, t.upc)) = some (some 0x4d2b30c5#32, .run, 0#6) := by decide
theorem test_transform_256_subword_only :
    busOf (transform .aes256 12 (by decide) (busBytes 4 0xa572c09c#32)) = 0x0640bade#32 := by decide
theorem test_transform_192_none :
    busOf (transform .aes192 10 (by decide) (busBytes 4 0x5847f0fa#32)) = 0x5847f0fa#32 := by decide

/-! ### Round transforms (95_test_vectors.md 4.1, 5.4) -/

theorem test_subbytes :
    after (exec .subbytes (withState 0x00102030405060708090a0b0c0d0e0f0#128)) stateHex =
      some 0x63cab7040953d051cd60e0e7ba70e18c#128 := by decide
theorem test_invsubbytes :
    after (exec .invsubbytes (withState 0x000102030405060708090a0b0c0d0e0f#128)) stateHex =
      some 0x52096ad53036a538bf40a39e81f3d7fb#128 := by decide
theorem test_shiftrows :
    after (exec .shiftrows (withState 0x000102030405060708090a0b0c0d0e0f#128)) stateHex =
      some 0x00050a0f04090e03080d02070c01060b#128 := by decide
theorem test_invshiftrows :
    after (exec .invshiftrows (withState 0x000102030405060708090a0b0c0d0e0f#128)) stateHex =
      some 0x000d0a0704010e0b0805020f0c090603#128 := by decide
theorem test_mixcolumns :
    after (exec .mixcolumns (withState 0x6353e08c0960e104cd70b751bacad0e7#128)) stateHex =
      some 0x5f72641557f5bc92f7be3b291db9f91a#128 := by decide
theorem test_mixcolumns_columns :
    after (exec .mixcolumns (withState 0x01000000000100000000010000000001#128)) (fun t => (stateHex t, t.upc)) =
      some (0x02010103030201010103020101010302#128, 1#6) := by decide
theorem test_invmixcolumns :
    after (exec .invmixcolumns (withState 0xe9f74eec023020f61bf2ccf2353c21c7#128)) stateHex =
      some 0x54d990a16ba09ab596bbf40ea111702f#128 := by decide
theorem test_invmixcolumns_columns :
    after (exec .invmixcolumns (withState 0x01000000000100000000010000000001#128)) stateHex =
      some 0x0e090d0b0b0e090d0d0b0e09090d0b0e#128 := by decide

/-- Round key 1 of the key 000102..0f in W[4..7]. -/
def roundOne (v : BitVec 128) : State :=
  withWord 4 0xd6aa74fd#32 (withWord 5 0xd2af72fa#32 (withWord 6 0xdaa678f1#32 (withWord 7 0xd6ab76fe#32
    { withState v with nr := 10#4 })))

theorem test_addroundkey :
    after (exec (.addroundkey 1#4) (roundOne 0x5f72641557f5bc92f7be3b291db9f91a#128)) stateHex =
      some 0x89d810e8855ace682d1843d8cb128fe4#128 := by decide
theorem test_addroundkey_above_nr :
    exec (.addroundkey 11#4) (roundOne 0#128) = .refused .argumentOutOfRange := rfl

/-! ### Driver (R170, R171; 95_test_vectors.md 5.5) -/

theorem test_loadstate :
    after (exec .loadstate { State.reset with blk := busBytes 16 0x00112233445566778899aabbccddeeff#128 })
      (fun t => (cell t.state 1 0, cell t.state 0 1, cell t.state 3 3)) =
      some (0x11#8, 0x44#8, 0xff#8) := by decide
theorem test_storestate :
    after (exec .storestate (withState 0x69c4e0d86a7b0430d8cdb78070b4c55a#128))
      (fun t => (busOf t.out, t.phase)) = some (0x69c4e0d86a7b0430d8cdb78070b4c55a#128, .done) := by decide
theorem test_uopEnc :
    (uopEnc 10 5, uopEnc 10 37, uopEnc 14 56, uopEnc 14 57, uopEnc 12 49) =
      (some (.addroundkey 1#4), some (.addroundkey 9#4), some (.addroundkey 14#4), some .storestate,
        some .storestate) := by decide
theorem test_uopDec :
    (uopDec 10 1, uopDec 10 4, uopDec 10 5, uopDec 10 36, uopDec 10 40) =
      (some (.addroundkey 10#4), some (.addroundkey 9#4), some .invmixcolumns, some (.addroundkey 1#4),
        some (.addroundkey 0#4)) := by decide

/-! ### Commands (R201, R202; 95_test_vectors.md P1, P2, 5.6) -/

/-- The registers ACCEPT writes beside KEY and BLK. -/
def latches (s : State) : Op × Nat × Nat × Nat × Status × Phase :=
  (s.op, s.ksb, s.nk.toNat, s.nr.toNat, s.status, s.phase)

theorem test_encrypt128 :
    after (exec .encrypt128 (offering 0#1 128)) latches = some (.encrypt, 128, 4, 10, .ok, .kexp) := by decide
theorem test_encrypt128_bytes :
    after (exec .encrypt128 (offering 0#1 128)) (fun t => (t.key[1], t.key[31], t.blk[15])) =
      some (0x01#8, 0x1f#8, 0xff#8) := by decide
theorem test_encrypt192 :
    after (exec .encrypt192 (offering 0#1 192)) latches = some (.encrypt, 192, 6, 12, .ok, .kexp) := by decide
theorem test_encrypt256 :
    after (exec .encrypt256 (offering 0#1 256)) latches = some (.encrypt, 256, 8, 14, .ok, .kexp) := by decide
theorem test_decrypt128 :
    after (exec .decrypt128 (offering 1#1 128)) latches = some (.decrypt, 128, 4, 10, .ok, .kexp) := by decide
theorem test_decrypt192 :
    after (exec .decrypt192 (offering 1#1 192)) latches = some (.decrypt, 192, 6, 12, .ok, .kexp) := by decide
theorem test_decrypt256 :
    after (exec .decrypt256 (offering 1#1 256)) latches = some (.decrypt, 256, 8, 14, .ok, .kexp) := by decide
theorem test_encrypt_invalid :
    after (exec (.encrypt 100) { offering 0#1 100 with nk := 4#4, nr := 10#4 }) latches =
      some (.encrypt, 100, 4, 10, .invalidKeySize, .done) := by decide
theorem test_decrypt_384 :
    after (exec (.decrypt 384) (offering 1#1 384)) latches =
      some (.decrypt, 384, 0, 0, .invalidKeySize, .done) := by decide
theorem test_encrypt_busy :
    after (exec .encrypt128 { offering 0#1 128 with phase := .run, upc := 7#6 }) (fun t => (t.phase, t.upc, t.ksb)) =
      some (.run, 7#6, 0) := by decide

/-! ### Steps -/

/-- The core at UPC of the encryption sequence, AES-128. -/
def running (upc : BitVec 6) : State := { keyed .aes128 with ksb := 128, phase := .run, upc := upc }

/-- The core at KIDX of the key expansion, AES-128. -/
def expanding (kidx : BitVec 6) : State := { keyed .aes128 with ksb := 128, phase := .kexp, kidx := kidx }

/-- The core in DONE after a command that answered with a block. -/
def finished (ready : Bool) : State :=
  { keyed .aes128 with ksb := 128, phase := .done, pins := { Pins.quiet with rspReady := ready } }

theorem test_step_accepts :
    after (step (offering 1#1 192)) latches = some (.decrypt, 192, 6, 12, .ok, .kexp) := by decide
theorem test_step_accepts_narrow :
    after (step { offering 1#1 256 with ksbW := 9 }) latches = some (.decrypt, 256, 8, 14, .ok, .kexp) := by decide
theorem test_step_kexp :
    after (step (expanding 3#6)) (fun t => (wordHex 3 t, t.kidx, t.phase)) =
      some (some 0x0c0d0e0f#32, 4#6, .kexp) := by decide
theorem test_step_run :
    after (step { running 2#6 with state := busBytes 16 0#128 }) (fun t => (stateHex t, t.upc)) =
      some (0x63636363636363636363636363636363#128, 3#6) := by decide
theorem test_step_respond :
    after (step { finished true with out := busBytes 16 0x0f#128 }) (fun t => (t.phase, t.received)) =
      some (.idle, [.ok (busBytes 16 0x0f#128)]) := by decide
theorem test_step_reset :
    after (step { running 20#6 with pins := { Pins.quiet with rst := true } }) (fun t => (t.phase, t.received)) =
      some (.idle, []) := by decide
theorem test_step_plan :
    after (step { State.reset with plan := [{ Pins.quiet with rspReady := true }] })
      (fun t => (t.pins.rspReady, t.plan.length)) = some (true, 0) := by decide
theorem test_withFetchWord_kexpWord :
    action (State.reset.withFetchWord 16 0x2BB) = .run (.uop 0x2BB#10) := by decide
theorem test_withFetchWord_decrypt :
    after (step (State.reset.withFetchWord 40 0x100000080)) latches = some (.decrypt, 128, 4, 10, .ok, .kexp) := by
  decide

/-! ### Witnesses of the statements' hypotheses -/

theorem witness_DecodeOfEncode :
    (Instr.rcon 10#4).wellFormed 32 = true ∧ (Instr.addroundkey 14#4).wellFormed 32 = true ∧
      (Instr.kexpWord 59#6).wellFormed 32 = true ∧ (Instr.encrypt 129).wellFormed 32 = true ∧
      Instr.decrypt256.wellFormed 9 = true ∧ (Instr.decrypt 511).wellFormed 9 = true := by decide
theorem witness_EncodeOfDecode :
    ((Encoded.uop 0b0010001110#10).hasWidth 32 = true ∧ decode (.uop 0b0010001110#10) = .ok (.addroundkey 14#4)) ∧
      (Encoded.cmd 9 0b1100000000#10).hasWidth 9 = true ∧ decode (.cmd 9 0b1100000000#10) = .ok .decrypt256 :=
  ⟨⟨rfl, rfl⟩, rfl, rfl⟩
theorem witness_ReservedWordsRefused :
    (0xB ≤ (0xB#4).toNat) ∧ (3 ≤ (3#4).toNat ∧ (3#4).toNat ≤ 8 ∧ 1#6 ≠ 0#6) ∧ ((0#4).toNat ≤ 1) ∧
      14 < (15#6).toNat ∧ 7 < (8#6).toNat ∧ (3#6).toNat < 4 ∧ 59 < (60#6).toNat ∧ (0#4).toNat = 0 ∧
      10 < (11#4).toNat := by decide
theorem witness_StepRunsDecoded :
    action (offering 0#1 128) = .run (.cmd 32 0x000000080#33) ∧ decode (.cmd 32 0x000000080#33) = .ok .encrypt128 :=
  ⟨by decide, rfl⟩
theorem witness_StepPresents_fn :
    ({ State.reset with fnIn := some (.rcon 1#4) } : State).pins.rst = false := rfl
theorem witness_StepPresents_phases :
    ((offering 0#1 128).phase = .idle ∧ (offering 0#1 128).pins.cmdValid = true) ∧
      (expanding 3#6).kidx.toNat < (expanding 3#6).nk.toNat ∧ (expanding 4#6).nk.toNat ≤ (expanding 4#6).kidx.toNat ∧
      uopEnc (running 41#6).nr.toNat (running 41#6).upc.toNat = some .storestate ∧
      uopDec (running 41#6).nr.toNat (running 41#6).upc.toNat = some .storestate := by decide
theorem witness_PlacedWordIsPresented :
    decodeTableWord 16 0x2BB = some (.kexpWord 59#6) ∧ decodeTableWord 8 0x53 = some (.sbox 0x53#8) ∧
      decodeTableWord 40 0x100000064 = some (.decrypt 100) := by decide
theorem witness_SboxIsAffineOfInverse :
    polyMul 0x53#8 0xca#8 = 0x01#8 ∧ ((0x53#8 : Byte) ≠ 0x00#8) := by decide
theorem witness_FieldLaws : (0xff#8 : Byte) ≠ 0x00#8 ∧ (0 < 50 ∧ 50 < 51) ∧ (3 < 4) := by decide
theorem witness_RconResult :
    (1 ≤ (1#4).toNat ∧ (1#4).toNat ≤ 10) ∧ (1 ≤ (10#4).toNat ∧ (10#4).toNat ≤ 10) ∧ (0#4).toNat = 0 ∧
      10 < (11#4).toNat := by decide
theorem witness_KexpCopyResult :
    keySizeOf (keyed .aes256).nk (keyed .aes256).nr = some .aes256 ∧ (7#6).toNat < KeySize.aes256.words := by decide
theorem witness_KexpWordResult_first :
    keySizeOf (keyed .aes256).nk (keyed .aes256).nr = some .aes256 ∧ KeySize.aes256.words ≤ (8#6).toNat ∧
      (8#6).toNat < 4 * (KeySize.aes256.rounds + 1) := by decide
theorem witness_KexpWordResult_last :
    (59#6).toNat = 4 * (KeySize.aes256.rounds + 1) - 1 ∧ KeySize.aes256.words ≤ (59#6).toNat := by decide
theorem witness_ArgumentOutOfRangeRefused_copy :
    ∀ k, keySizeOf (keyed .aes128).nk (keyed .aes128).nr = some k → k.words ≤ (4#6).toNat := by
  intro k h; cases k <;> revert h <;> decide
theorem witness_ArgumentOutOfRangeRefused_word :
    ∀ k, keySizeOf (keyed .aes128).nk (keyed .aes128).nr = some k →
      (44#6).toNat < k.words ∨ 4 * (k.rounds + 1) ≤ (44#6).toNat := by
  intro k h; cases k <;> revert h <;> decide
theorem witness_ArgumentOutOfRangeRefused_round : (keyed .aes128).nr.toNat < (11#4).toNat ∧ 14 < (15#4).toNat := by
  decide
theorem witness_KeyExpandRecurrence :
    7 < KeySize.aes256.words ∧ KeySize.aes256.words ≤ 8 ∧ 59 < KeySize.aes256.scheduleWords := by decide
theorem witness_SpareKeyBytesIgnored :
    decodeKsb 128 = some .aes128 ∧
      (∀ n, n < 4 * KeySize.aes128.words →
        (keyed .aes128).key[n]? = ((keyed .aes128).key.set 16 0xaa#8 (by decide))[n]?) ∧
      (keyed .aes128).key ≠ (keyed .aes128).key.set 16 0xaa#8 (by decide) := by decide
theorem witness_KexpPhaseComputesKeyExpand :
    (expanding 0#6).phase = .kexp ∧ keySizeOf (expanding 0#6).nk (expanding 0#6).nr = some .aes128 ∧
      (expanding 0#6).kidx = 0#6 ∧ (expanding 0#6).fnIn = none ∧ NoReset (expanding 0#6) :=
  ⟨rfl, rfl, rfl, rfl, rfl, fun _ h => nomatch h⟩
theorem witness_cell_indices : (0 < 4) ∧ (3 < 4) ∧ (15 < 16) := by decide
theorem witness_MixcolumnsResult_equal :
    cell (withState 0xc6c6c6c6000000000000000000000000#128).state 0 0 =
      cell (withState 0xc6c6c6c6000000000000000000000000#128).state 3 0 := by decide
theorem witness_AddroundkeyResult : (14#4).toNat ≤ (keyed .aes256).nr.toNat ∧ (14#4).toNat ≤ 14 := by decide
theorem witness_SequencerIssuesLegalUops_kexp : SequencerInv (expanding 43#6) := ⟨.aes128, by decide⟩
theorem witness_SequencerIssuesLegalUops_run :
    SequencerInv (running 41#6) ∧ (running 41#6).pins.rst = false ∧ (running 41#6).fnIn = none :=
  ⟨⟨.aes128, by decide⟩, rfl, rfl⟩
theorem witness_CiphersInverse : 4 * 14 + 3 < 60 ∧ 4 * 0 + 3 < 4 := by decide
theorem witness_RunPhaseComputesCipher :
    (running 0#6).phase = .run ∧ keySizeOf (running 0#6).nk (running 0#6).nr = some .aes128 ∧
      (running 0#6).upc = 0#6 ∧ (running 0#6).fnIn = none ∧ NoReset (running 0#6) ∧
      (∀ i (h : i < KeySize.aes128.scheduleWords), (running 0#6).w[i]? =
        some (Vector.replicate KeySize.aes128.scheduleWords (Vector.replicate 4 0#8))[i]) := by
  refine ⟨rfl, rfl, rfl, rfl, ⟨rfl, fun _ h => nomatch h⟩, ?_⟩
  intro i h
  have h60 : i < 60 := Nat.lt_trans h (by decide)
  simp [running, keyed, State.reset, h60]
theorem witness_AcceptValidForms : State.reset.phase = .idle := rfl
theorem witness_InvalidKeySizeTaken :
    (offering 0#1 127).phase = .idle ∧ 127 ≠ 128 ∧ 127 ≠ 192 ∧ 127 ≠ 256 := by decide
theorem witness_BusyCommandHasNoEffect :
    (expanding 0#6).phase ≠ .idle ∧ (running 0#6).phase ≠ .idle ∧ (finished true).phase ≠ .idle := by decide
theorem witness_DoneRespondsOrWaits :
    (finished true).phase = .done ∧ (finished true).pins.rspReady = true ∧ (finished true).status = .ok ∧
      (finished false).pins.rspReady = false ∧
      ({ finished true with status := .invalidKeySize } : State).pins.rst = false := by decide
theorem witness_IdleAcceptsOrWaits :
    (offering 0#1 128).phase = .idle ∧ (offering 0#1 128).pins.cmdValid = true ∧
      State.reset.pins.cmdValid = false := by decide
theorem witness_ResetStep :
    ({ running 20#6 with pins := { Pins.quiet with rst := true } } : State).pins.rst = true := rfl
theorem witness_ResetState :
    ({ Pins.quiet with cmdValid := true } : Pins).rst = false ∧ ({ Pins.quiet with cmdValid := true } : Pins).cmdValid =
      true := by decide
theorem witness_writers_accept :
    ∃ t, step (offering 1#1 192) = .next t ∧ t.key ≠ (offering 1#1 192).key ∧ t.nk ≠ (offering 1#1 192).nk ∧
      t.phase = .kexp :=
  ⟨_, rfl, by decide⟩
theorem witness_writers_kexp :
    ∃ t, step (expanding 3#6) = .next t ∧ t.w ≠ (expanding 3#6).w ∧ t.kidx ≠ (expanding 3#6).kidx :=
  ⟨_, rfl, by decide⟩
theorem witness_writers_run :
    ∃ t, step (running 2#6) = .next t ∧ t.state ≠ (running 2#6).state ∧ t.upc ≠ (running 2#6).upc :=
  ⟨_, rfl, by decide⟩
theorem witness_writers_storestate :
    ∃ t, step { running 41#6 with state := busBytes 16 1#128 } = .next t ∧ t.out ≠ (running 41#6).out ∧
      t.phase = .done :=
  ⟨_, rfl, by decide⟩
theorem witness_writers_respond :
    ∃ t, step (finished true) = .next t ∧ t.received ≠ (finished true).received ∧ t.phase = .idle :=
  ⟨_, rfl, by decide⟩
theorem witness_phases_invalid : ∃ t, step (offering 0#1 100) = .next t ∧ t.phase = .done := ⟨_, rfl, by decide⟩
theorem witness_phases_kexp_run : ∃ t, step (expanding 43#6) = .next t ∧ t.phase = .run ∧ t.upc = 0#6 :=
  ⟨_, rfl, by decide⟩
theorem witness_CountersAdvance :
    SequencerInv (expanding 0#6) ∧ SequencerInv (running 0#6) ∧ (running 0#6).pins.rst = false :=
  ⟨⟨.aes128, by decide⟩, ⟨.aes128, by decide⟩, rfl⟩
theorem witness_InvKept_ksb : KsbFits (offering 1#1 256) ∧ ∃ t, step (offering 1#1 256) = .next t :=
  ⟨Nat.two_pow_pos 32, _, rfl⟩
theorem witness_InvKept : SequencerInv (finished true) ∧ ∃ t, step (finished true) = .next t :=
  ⟨⟨rfl, by intro k h; cases k <;> revert h <;> decide⟩, _, rfl⟩
theorem witness_NeverStops : SequencerInv State.reset ∧ FnLegal { State.reset with fnIn := some (.rcon 10#4) } :=
  ⟨trivial, fun _ h => ⟨.rcon 10#4, by cases h; rfl⟩⟩
theorem witness_HostCannotInterfere : ∃ t, step (running 5#6) = .next t ∧ (running 5#6).pins.rst = false :=
  ⟨_, rfl, rfl⟩
theorem witness_CommandComputes :
    (offering 0#1 128).phase = .idle ∧ (offering 0#1 128).pins.cmdValid = true ∧
      (offering 0#1 128).fnIn = none ∧ NoReset (offering 0#1 128) :=
  ⟨rfl, rfl, rfl, rfl, fun _ h => nomatch h⟩
/-- A core offered a command by a host that stays ready. -/
def answered (op : BitVec 1) (ksb : Ksb) : State :=
  { offering op ksb with pins := { (offering op ksb).pins with rspReady := true } }

theorem witness_CommandAnswered_invalid :
    let s := answered 0#1 100
    s.phase = .idle ∧ s.pins.cmdValid = true ∧ s.fnIn = none ∧ NoReset s ∧ s.pins.rspReady = true ∧
      (∀ p ∈ s.plan, p.rspReady = true) ∧ decodeKsb (portKsb s) = none :=
  ⟨rfl, rfl, rfl, ⟨rfl, fun _ h => nomatch h⟩, rfl, (fun _ h => nomatch h), by decide⟩
theorem witness_CommandAnswered_valid :
    let s : State := { answered 1#1 256 with plan := [{ Pins.quiet with rspReady := true }] }
    s.phase = .idle ∧ s.pins.cmdValid = true ∧ s.fnIn = none ∧ NoReset s ∧ s.pins.rspReady = true ∧
      (∀ p ∈ s.plan, p.rspReady = true) ∧ decodeKsb (portKsb s) = some .aes256 := by
  refine ⟨rfl, rfl, rfl, ⟨rfl, ?_⟩, rfl, ?_, by decide⟩ <;> (intro p hp; obtain rfl := List.mem_singleton.mp hp; rfl)
theorem witness_CommandAnswered_counts : (100 ≠ 128) ∧ (100 ≠ 192) ∧ (100 ≠ 256) := by decide
theorem witness_RoundTrip :
    ∃ c d, command .encrypt 128 (keyed .aes128).key State.reset.blk = .ok c ∧
      command .decrypt 128 (keyed .aes128).key State.reset.blk = .ok d :=
  ⟨transformBlock .encrypt .aes128 (keyed .aes128).key State.reset.blk,
    transformBlock .decrypt .aes128 (keyed .aes128).key State.reset.blk,
    by simp [command, decodeKsb], by simp [command, decodeKsb]⟩
theorem witness_ResidueUnobservable :
    ({ offering 0#1 128 with nr := 14#4, out := (keyed .aes128).blk } : State).pins = (offering 0#1 128).pins ∧
      ({ offering 0#1 128 with nr := 14#4 } : State) ≠ offering 0#1 128 := by decide
theorem witness_KsbWidthIsOpen :
    (offering 1#1 256).pins.rst = false ∧ (offering 1#1 256).pins.cmdKsb < 2 ^ (offering 1#1 256).ksbW ∧
      (offering 1#1 256).pins.cmdKsb < 2 ^ 9 := by decide

end Sys2Proof.Tests
end

section
/-!
SUPPORT. The encoding both ways (spec/30_encoding.md R81, R83, R84, R86, R88): one rule per format for decoding what
was encoded and one for encoding what was decoded, then the statements that put them together.
-/
namespace Sys2Proof

/-! ### Joining the fields of a word -/

/-- The four bytes of a 32-bit bus, joined in the order of R84, are the bus. -/
theorem append_bytes_eq_self (x : BitVec 32) :
    x.extractLsb' 24 8 ++ x.extractLsb' 16 8 ++ x.extractLsb' 8 8 ++ x.extractLsb' 0 8 = x := by
  rw [BitVec.extractLsb'_append_extractLsb'_eq_extractLsb' (by rfl),
    BitVec.extractLsb'_append_extractLsb'_eq_extractLsb' (by rfl),
    BitVec.extractLsb'_append_extractLsb'_eq_extractLsb' (by rfl), BitVec.extractLsb'_eq_self]

/-- The four bytes of a 32-bit bus that was put together from them. -/
theorem bytes_of_append (a b c d : Byte) :
    (a ++ b ++ c ++ d).extractLsb' 24 8 = a ∧ (a ++ b ++ c ++ d).extractLsb' 16 8 = b ∧
      (a ++ b ++ c ++ d).extractLsb' 8 8 = c ∧ (a ++ b ++ c ++ d).extractLsb' 0 8 = d := by
  have h := append_bytes_eq_self (a ++ b ++ c ++ d)
  simpa only [append_inj, and_assoc] using h

/-- The argument of ADDROUNDKEY, two zero bits before the round, counts the round (R83). -/
theorem toNat_roundArg (round : BitVec 4) : (0#2 ++ round : BitVec 6).toNat = round.toNat := by
  revert round; decide

/-- An argument that counts at most 14 is two zero bits before its round (R83, R88). -/
theorem roundArg_of_le {arg : BitVec 6} (h : arg.toNat ≤ 14) :
    0#2 ++ arg.extractLsb' 0 4 = arg ∧ (arg.extractLsb' 0 4).toNat ≤ 14 := by
  revert arg; decide

namespace Machine

/-! ### The rows of a command word (R81, R86) -/

/-- A keySizeBits that the field can hold reaches its row uncut. -/
theorem decode_cmdWord_of_fits {w : Nat} {ksb : Ksb} (h : fitsKsb w ksb = true) (op : BitVec 1) :
    decode (cmdWord w op ksb) = .ok (cmdRow op ksb) := by
  have hlt : ksb < 2 ^ w := of_decide_eq_true h
  rw [decode_cmdWord, Nat.mod_eq_of_lt hlt]

/-- An unrecognised keySizeBits is the generic row's. -/
theorem cmdRow_unrecognised {ksb : Ksb} (h : recognisedKsb ksb = false) :
    cmdRow 0#1 ksb = .encrypt ksb ∧ cmdRow 1#1 ksb = .decrypt ksb := by
  simp only [recognisedKsb, Bool.or_eq_false_iff, beq_eq_false_iff_ne] at h
  obtain ⟨⟨h128, h192⟩, h256⟩ := h
  simp [cmdRow, h128, h192, h256]

/-- A row is encoded as the command word it stands for. -/
theorem encode_cmdRow (w : Nat) (op : BitVec 1) (ksb : Ksb) : encode w (cmdRow op ksb) = cmdWord w op ksb := by
  rcases bit_cases op with rfl | rfl <;> unfold cmdRow <;> (repeat' split) <;> simp_all [encode]

/-- A row is well formed when the field can hold its keySizeBits. -/
theorem wellFormed_cmdRow (w : Nat) (op : BitVec 1) (ksb : Ksb) :
    (cmdRow op ksb).wellFormed w = fitsKsb w ksb := by
  unfold cmdRow
  (repeat' split) <;> simp_all [Instr.wellFormed, recognisedKsb]

/-- The `op` bit and the `ksb` field of a command word, joined again, are the word. -/
theorem cmdWord_fields {w : Nat} (word : BitVec (1 + w)) :
    cmdWord w (cmdOpBit word) (cmdKsbField word) = .cmd w word := by
  simp only [cmdWord, cmdOpBit, cmdKsbField, BitVec.ofNat_toNat, BitVec.setWidth_eq]
  rw [BitVec.extractLsb'_append_extractLsb']

/-- The `ksb` field of a command word holds no more than its bits. -/
theorem fitsKsb_cmdKsbField {w : Nat} (word : BitVec (1 + w)) : fitsKsb w (cmdKsbField word) = true :=
  decide_eq_true (BitVec.isLt _)

/-! ### The uop words (R83, R88) -/

/-- A uop without an argument is read from the argument 0 alone. -/
theorem plainUop_eq_ok {usel : BitVec 4} {arg : BitVec 6} {i j : Instr} :
    plainUop usel arg i = .ok j ↔ arg = 0#6 ∧ i = j := by
  unfold plainUop; split <;> simp_all

/-- What a `usel` and an `arg` name is encoded by them, and is well formed. -/
theorem encode_of_decodeUopFields {usel : BitVec 4} {arg : BitVec 6} {i : Instr}
    (h : decodeUopFields usel arg = .ok i) (w : Nat) :
    encode w i = uopWord usel arg ∧ i.wellFormed w = true := by
  unfold decodeUopFields at h
  split at h
  case h_3 =>
    split at h
    · next hr =>
      obtain ⟨harg, hround⟩ := roundArg_of_le hr
      cases h
      exact ⟨congrArg (uopWord 0x2#4) harg, decide_eq_true hround⟩
    · cases h
  case h_10 | h_11 =>
    split at h
    · next hi => cases h; exact ⟨rfl, decide_eq_true hi⟩
    · cases h
  case h_12 => cases h
  all_goals
    obtain ⟨rfl, rfl⟩ := plainUop_eq_ok.mp h
    exact ⟨rfl, rfl⟩

/-- `usel` and `arg` of a uop word, joined again, are the word. -/
theorem uopWord_fields (word : BitVec 10) : uopWord (word.extractLsb' 6 4) (word.extractLsb' 0 6) = .uop word :=
  congrArg Encoded.uop BitVec.extractLsb'_append_extractLsb'

/-- What a uop word is read as is encoded by it, and is well formed. -/
theorem encode_of_decodeUop {word : BitVec 10} {i : Instr} (h : decodeUop word = .ok i) (w : Nat) :
    encode w i = .uop word ∧ i.wellFormed w = true :=
  uopWord_fields word ▸ encode_of_decodeUopFields h w

/-! ### The operands of the function units (R84) -/

/-- What an operand is read as is encoded by it, and is well formed. -/
theorem encode_of_decodeFn {bus : FnBus} {i : Instr} (h : decodeFn bus = .ok i) (w : Nat) :
    encode w i = .fn bus ∧ i.wellFormed w = true := by
  cases bus with
  | sbox bus => cases h; exact ⟨rfl, rfl⟩
  | invsbox bus => cases h; exact ⟨rfl, rfl⟩
  | xtime bus => cases h; exact ⟨rfl, rfl⟩
  | gmul bus =>
    cases h
    exact ⟨congrArg (fun x => Encoded.fn (.gmul x)) BitVec.extractLsb'_append_extractLsb', rfl⟩
  | rotword bus =>
    cases h
    exact ⟨congrArg (fun x => Encoded.fn (.rotword x)) (append_bytes_eq_self bus), rfl⟩
  | subword bus =>
    cases h
    exact ⟨congrArg (fun x => Encoded.fn (.subword x)) (append_bytes_eq_self bus), rfl⟩
  | rcon bus =>
    simp only [decodeFn] at h
    split at h
    · next hj => cases h; exact ⟨rfl, decide_eq_true hj⟩
    · cases h

/-! ### The statements -/

/-- Settles O2, by the instruction: the rule of its format reads its fields back, and well-formedness is what the
decoder checks. -/
theorem decodeOfEncode : Obligations.DecodeOfEncode := by
  unfold Obligations.DecodeOfEncode
  intro w i h
  cases i with
  | sbox | invsbox | xtime => rfl
  | gmul a b =>
    have ha : (a ++ b : BitVec 16).extractLsb' 8 8 = a := extract_high a b
    have hb : (a ++ b : BitVec 16).extractLsb' 0 8 = b := extract_low a b
    simp only [encode, decode, decodeFn, ha, hb]
  | rotword a b c d | subword a b c d =>
    obtain ⟨ha, hb, hc, hd⟩ := bytes_of_append a b c d
    simp [encode, decode, decodeFn, ha, hb, hc, hd]
  | rcon j =>
    have hj : 1 ≤ j.toNat ∧ j.toNat ≤ 10 := of_decide_eq_true h
    simp [encode, decode, decodeFn, hj]
  | loadstate | storestate | subbytes | shiftrows | mixcolumns | invsubbytes | invshiftrows | invmixcolumns => rfl
  | addroundkey round =>
    have hr : (0#2 ++ round : BitVec 6).toNat ≤ 14 := toNat_roundArg round ▸ of_decide_eq_true h
    have hlow : (0#2 ++ round : BitVec 6).extractLsb' 0 4 = round := extract_low 0#2 round
    simp [encode, decode_uopWord, decodeUopFields, hr, hlow]
  | kexpCopy i =>
    have hi : i.toNat ≤ 7 := of_decide_eq_true h
    simp [encode, decode_uopWord, decodeUopFields, hi]
  | kexpWord i =>
    have hi : 4 ≤ i.toNat ∧ i.toNat ≤ 59 := of_decide_eq_true h
    simp [encode, decode_uopWord, decodeUopFields, hi]
  | encrypt128 | encrypt192 | encrypt256 => exact decode_cmdWord_of_fits h 0#1
  | decrypt128 | decrypt192 | decrypt256 => exact decode_cmdWord_of_fits h 1#1
  | encrypt ksb =>
    obtain ⟨hfits, hrec⟩ := Bool.and_eq_true_iff.mp h
    rw [encode, decode_cmdWord_of_fits hfits, (cmdRow_unrecognised (by simpa using hrec)).1]
  | decrypt ksb =>
    obtain ⟨hfits, hrec⟩ := Bool.and_eq_true_iff.mp h
    rw [encode, decode_cmdWord_of_fits hfits, (cmdRow_unrecognised (by simpa using hrec)).2]

/-- Settles O3, by the format of the word: its fields, joined again, are the word. -/
theorem encodeOfDecode : Obligations.EncodeOfDecode := by
  unfold Obligations.EncodeOfDecode
  intro w e i hw h
  cases e with
  | cmd w' word =>
    obtain rfl : w' = w := eq_of_beq hw
    obtain rfl : cmdRow (cmdOpBit word) (cmdKsbField word) = i := Except.ok.inj h
    exact ⟨(encode_cmdRow ..).trans (cmdWord_fields word), (wellFormed_cmdRow ..).trans (fitsKsb_cmdKsbField word)⟩
  | uop word => exact encode_of_decodeUop h w
  | fn bus => exact encode_of_decodeFn h w

end Machine

end Sys2Proof
end

section
/-!
SUPPORT. What a step makes of the instruction presented (spec/30_encoding.md R83, spec/45_command_api.md R203), and
that no step but RESET reads the width KSB_W (spec/00_scope.md R7).
-/
namespace Sys2Proof.Machine

/-! ### A step runs what it decodes -/

/-- A step that presents a word with a meaning runs that meaning. -/
theorem step_of_run {s : State} {e : Encoded} {i : Instr} (ha : action s = .run e) (hd : decode e = .ok i) :
    step s = afterRun (exec i s) := by
  simp only [step, ha, hd]

/-- Settles O5: `afterRun` clears the function unit's bus of a next state and gives the host its turn. -/
theorem stepRunsDecoded : Obligations.StepRunsDecoded := by
  unfold Obligations.StepRunsDecoded
  intro s e i ha hd
  rw [step_of_run ha hd]
  cases exec i s <;> rfl

/-- A step that accepts a command from the port (R201): no reset, nothing on a function unit's bus, IDLE, and
`cmd_valid`. -/
def Accepting (s : State) : Prop :=
  s.pins.rst = false ∧ s.fnIn = none ∧ s.phase = .idle ∧ s.pins.cmdValid = true

/-- Such a step is ACCEPT of the port's values. -/
theorem step_of_accepting {s : State} (h : Accepting s) :
    step s = afterRun (.next (accept (opOfCode s.pins.cmdOp) (portKsb s) s)) := by
  obtain ⟨hr, hf, hp, hv⟩ := h
  have ha : action s = .run (cmdWord s.ksbW s.pins.cmdOp s.pins.cmdKsb) := by simp [action, hr, hf, hp, hv]
  rw [step_of_run ha (decode_cmdWord ..), exec_cmdRow, portKsb]

/-! ### The same core with another KSB_W -/

/-- The state of a core whose keySizeBits field has `w` bits, all else as in `s` (log 11). -/
def withKsbW (w : Nat) (s : State) : State := { s with ksbW := w }

section

variable (w : Nat) (s : State)

@[simp] theorem withKsbW_ksbW : (withKsbW w s).ksbW = w := rfl
@[simp] theorem withKsbW_pins : (withKsbW w s).pins = s.pins := rfl
@[simp] theorem withKsbW_fnIn : (withKsbW w s).fnIn = s.fnIn := rfl
@[simp] theorem withKsbW_phase : (withKsbW w s).phase = s.phase := rfl
@[simp] theorem kexpUop_withKsbW : kexpUop (withKsbW w s) = kexpUop s := rfl
@[simp] theorem runUop_withKsbW : runUop (withKsbW w s) = runUop s := rfl

/-- The same outcome, with `f` applied to a next state. -/
def mapNext (f : State → State) : Host.Outcome State Fault Refusal → Host.Outcome State Fault Refusal
  | .next t => .next (f t)
  | .fault r => .fault r
  | .refused r => .refused r

theorem hostTurn_withKsbW : hostTurn (withKsbW w s) = withKsbW w (hostTurn s) := by
  cases hp : s.plan <;> simp [hostTurn, withKsbW, hp]

theorem afterRun_mapNext_withKsbW (o : Host.Outcome State Fault Refusal) :
    afterRun (mapNext (withKsbW w) o) = mapNext (withKsbW w) (afterRun o) := by
  cases o with
  | next t => exact congrArg Host.Outcome.next (hostTurn_withKsbW w (clearFn t))
  | fault | refused => rfl

/-- ACCEPT latches the keySizeBits it is given; the width is not read. -/
theorem accept_withKsbW (op : Op) (ksb : Ksb) :
    accept op ksb (withKsbW w s) = withKsbW w (accept op ksb s) := by
  by_cases hp : s.phase = .idle
  · cases hk : decodeKsb ksb with
    | some k => rw [accept_valid hp op hk, accept_valid (s := withKsbW w s) hp op hk]; rfl
    | none => rw [accept_invalid hp op hk, accept_invalid (s := withKsbW w s) hp op hk]; rfl
  · rw [accept_busy hp, accept_busy (s := withKsbW w s) hp]

/-- No instruction reads or writes the width. -/
theorem exec_withKsbW (i : Instr) : exec i (withKsbW w s) = mapNext (withKsbW w) (exec i s) := by
  cases i with
  | rcon j =>
    simp only [exec, execRcon]
    split <;> rfl
  | addroundkey round =>
    by_cases h : round.toNat ≤ s.nr.toNat ∧ round.toNat ≤ 14 <;>
      simp [exec, execAddroundkey, withKsbW, h, mapNext, putState]
  | kexpCopy idx =>
    simp only [exec, execKexpCopy, withKsbW]
    split
    · rfl
    · split <;> rfl
  | kexpWord idx =>
    simp only [exec, execKexpWord, withKsbW]
    split
    · rfl
    · split
      · split <;> rfl
      · rfl
  | encrypt128 | encrypt192 | encrypt256 | decrypt128 | decrypt192 | decrypt256 | encrypt _ | decrypt _ =>
    exact congrArg Host.Outcome.next (accept_withKsbW w s _ _)
  | _ => rfl

/-- A uop has the same word at every width. -/
theorem encode_uop_width {i : Instr} {v : Nat} (hu : ∃ word, encode v i = .uop word) : encode w i = encode v i := by
  obtain ⟨word, hw⟩ := hu
  cases i with
  | encrypt128 | encrypt192 | encrypt256 | decrypt128 | decrypt192 | decrypt256 | encrypt _ | decrypt _ => cases hw
  | _ => rfl

/-- Only a reset request calls for the RESET step (R250). -/
theorem action_ne_reset {s : State} (hr : s.pins.rst = false) : action s ≠ .reset := by
  simp only [action, hr, Bool.false_eq_true, if_false]
  repeat' split
  all_goals nofun

/-- What a step does, but for the word of a command on the port, is the same at every width. -/
theorem action_withKsbW (hr : s.pins.rst = false) (h : ¬ Accepting s) : action (withKsbW w s) = action s := by
  cases hf : s.fnIn with
  | some bus => simp [action, hr, hf]
  | none =>
    cases hp : s.phase with
    | idle =>
      have hv : s.pins.cmdValid = false := Bool.eq_false_iff.mpr fun hv => h ⟨hr, hf, hp, hv⟩
      simp [action, hr, hf, hp, hv]
    | kexp =>
      have hw := encode_uop_width w (kexpUop_word s.ksbW s)
      simp [action, hr, hf, hp, hw]
    | run =>
      cases hu : runUop s with
      | none => simp [action, hr, hf, hp, hu]
      | some u =>
        have hw := encode_uop_width w (runUop_word s.ksbW hu)
        simp [action, hr, hf, hp, hu, hw]
    | done => cases hy : s.pins.rspReady <;> simp [action, hr, hf, hp, hy]

/-- Where the width does not show in the step's action, the step does not depend on it. -/
theorem step_withKsbW_of_action (hr : s.pins.rst = false) (h : action (withKsbW w s) = action s) :
    step (withKsbW w s) = mapNext (withKsbW w) (step s) := by
  simp only [step, h]
  cases ha : action s with
  | reset => exact absurd ha (action_ne_reset hr)
  | respond => exact congrArg Host.Outcome.next (hostTurn_withKsbW w (respond s))
  | wait => exact congrArg Host.Outcome.next (hostTurn_withKsbW w s)
  | lost => rfl
  | run e =>
    cases hd : decode e with
    | ok i => simp only [hd, exec_withKsbW, afterRun_mapNext_withKsbW]
    | error r => simp only [hd, mapNext]

/-- The step of a core of another width that can hold the keySizeBits on the port too. -/
theorem step_withKsbW (hr : s.pins.rst = false) (hs : s.pins.cmdKsb < 2 ^ s.ksbW) (hw : s.pins.cmdKsb < 2 ^ w) :
    step (withKsbW w s) = mapNext (withKsbW w) (step s) := by
  by_cases ha : Accepting s
  · have hport : portKsb (withKsbW w s) = portKsb s := (Nat.mod_eq_of_lt hw).trans (portKsb_of_fits hs).symm
    rw [step_of_accepting ha, step_of_accepting (s := withKsbW w s) ha, hport, ← afterRun_mapNext_withKsbW]
    exact congrArg (fun t => afterRun (.next t)) (accept_withKsbW w s _ _)
  · exact step_withKsbW_of_action w s hr (action_withKsbW w s hr ha)

end

/-- Settles O60, by whether the step accepts a command: if it does, both widths read the same keySizeBits from the
port; if not, the step's action is the same at both. -/
theorem ksbWidthIsOpen : Obligations.KsbWidthIsOpen := by
  unfold Obligations.KsbWidthIsOpen
  intro s w hr hs hw
  refine (step_withKsbW w s hr hs hw).trans ?_
  cases step s <;> rfl

end Sys2Proof.Machine
end

section
/-!
SUPPORT. The sequencer's invariant (spec/10_state.md R20, R26 to R30, R33, R36, R39): what it says in each phase, that
every step keeps it, and who writes which register; then what the two kinds of busy step do under it.
-/
namespace Sys2Proof.Machine

/-! ### The invariant, phase by phase -/

section

variable {s : State}

theorem sequencerInv_of_idle (hp : s.phase = .idle) : SequencerInv s := by
  simp only [SequencerInv, hp]

theorem sequencerInv_kexp_iff (hp : s.phase = .kexp) :
    SequencerInv s ↔ ∃ k, keySizeOf s.nk s.nr = some k ∧ decodeKsb s.ksb = some k ∧ s.status = .ok ∧
      s.kidx.toNat < k.scheduleWords := by
  simp only [SequencerInv, hp]

theorem sequencerInv_run_iff (hp : s.phase = .run) :
    SequencerInv s ↔ ∃ k, keySizeOf s.nk s.nr = some k ∧ decodeKsb s.ksb = some k ∧ s.status = .ok ∧
      s.upc.toNat ≤ 4 * k.rounds + 1 := by
  simp only [SequencerInv, hp]

theorem sequencerInv_done_iff (hp : s.phase = .done) :
    SequencerInv s ↔ s.status = statusOf s.ksb ∧ ∀ k, decodeKsb s.ksb = some k → keySizeOf s.nk s.nr = some k := by
  simp only [SequencerInv, hp]

/-! The invariant speaks of registers alone, none of which the host or a function unit writes. -/

@[simp] theorem sequencerInv_hostTurn : SequencerInv (hostTurn s) ↔ SequencerInv s := by
  simp [SequencerInv]

@[simp] theorem sequencerInv_clearFn : SequencerInv (clearFn s) ↔ SequencerInv s := Iff.rfl

@[simp] theorem sequencerInv_driveFn (r : FnResult) : SequencerInv (driveFn r s) ↔ SequencerInv s := Iff.rfl

end

/-! ### Key sizes and counters -/

/-- The status ACCEPT writes for a recognised key size (R30). -/
theorem statusOf_valid {ksb : Ksb} {k : KeySize} (h : decodeKsb ksb = some k) : statusOf ksb = .ok := by
  simp only [statusOf, h]

/-- The status ACCEPT writes for any other key size (R30). -/
theorem statusOf_invalid {ksb : Ksb} (h : decodeKsb ksb = none) : statusOf ksb = .invalidKeySize := by
  simp only [statusOf, h]

/-- A 6-bit counter below 63 counts without wrapping (R33). -/
theorem toNat_succ_counter {c : BitVec 6} (h : c.toNat < 63) : (c + 1#6).toNat = c.toNat + 1 := by
  bv_omega

/-- The number of rounds of a key size (R6). -/
theorem rounds_bounds (k : KeySize) : 10 ≤ k.rounds ∧ k.rounds ≤ 14 := by
  cases k <;> decide

/-- The schedule of a legal pair has 4(NR+1) words (R6, C2). -/
theorem scheduleWords_of_keySizeOf {nk nr : BitVec 4} {k : KeySize} (h : keySizeOf nk nr = some k) :
    k.scheduleWords = 4 * (nr.toNat + 1) := by
  rw [(toNat_of_keySizeOf h).2]; rfl

/-! ### Every step keeps the invariant -/

/-- ACCEPT establishes the invariant of KEXP, or that of DONE with InvalidKeySize (R201, R202). -/
theorem sequencerInv_accept {s : State} (hp : s.phase = .idle) (op : Op) (ksb : Ksb) :
    SequencerInv (accept op ksb s) := by
  obtain ⟨k, hk, ha⟩ | ⟨hk, ha⟩ := accept_cases hp op ksb
  · have hpos : 0 < k.scheduleWords := Nat.succ_pos _
    rw [ha, sequencerInv_kexp_iff rfl]
    exact ⟨k, keySizeOf_words_rounds k, hk, rfl, hpos⟩
  · rw [ha, sequencerInv_done_iff rfl]
    exact ⟨(statusOf_invalid hk).symm, by simp [hk]⟩

/-- A KEXP step counts to the last word, and from there begins RUN at position 0 (R136, R139). -/
theorem sequencerInv_kexpUop {s u : State} (h : SequencerInv s) (hp : s.phase = .kexp)
    (hu : exec (kexpUop s) s = .next u) : SequencerInv u := by
  obtain ⟨k, hk, hd, hst, hlt⟩ := (sequencerInv_kexp_iff hp).mp h
  obtain ⟨k', h60, v, hk', -, hcase⟩ := kexpUop_next hu
  obtain rfl : k = k' := Option.some.inj (hk.symm.trans hk')
  obtain ⟨hne, rfl⟩ | ⟨-, rfl⟩ := hcase
  · refine (sequencerInv_kexp_iff (s := putWord _ h60 v s) hp).mpr ⟨k, hk, hd, hst, ?_⟩
    rw [putWord_kidx, toNat_succ_counter (by omega)]
    omega
  · exact (sequencerInv_run_iff rfl).mpr ⟨k, hk, hd, hst, Nat.zero_le _⟩

/-- A RUN step counts to position 4 NR + 1, and from there ends in DONE (R171, R174). -/
theorem sequencerInv_runUop {s u : State} {i : Instr} (h : SequencerInv s) (hp : s.phase = .run)
    (hi : runUop s = some i) (hu : exec i s = .next u) : SequencerInv u := by
  obtain ⟨k, hk, hd, hst, -⟩ := (sequencerInv_run_iff hp).mp h
  obtain ⟨-, rfl⟩ | ⟨hle, v, rfl⟩ := runUop_next hi hu
  · refine (sequencerInv_done_iff rfl).mpr ⟨hst.trans (statusOf_valid hd).symm, fun k' hd' => ?_⟩
    exact hk.trans (hd.symm.trans hd')
  · refine (sequencerInv_run_iff (s := putState v s) hp).mpr ⟨k, hk, hd, hst, ?_⟩
    have hnr := (toNat_of_keySizeOf hk).2
    have hb := rounds_bounds k
    rw [putState_upc, toNat_succ_counter (by omega)]
    omega

/-- Every step keeps the sequencer's invariant (R26, R39). -/
theorem sequencerInv_step {s t : State} (h : SequencerInv s) (hs : step s = .next t) : SequencerInv t := by
  cases step_next_cases hs with
  | reset => exact sequencerInv_of_idle (by simp)
  | fn => simpa using h
  | idleWait | doneWait => simpa using h
  | accept _ _ hp => simpa using sequencerInv_accept hp _ _
  | kexp _ _ hp u hu => simpa using sequencerInv_kexpUop h hp hu
  | run _ _ hp i hi u hu => simpa using sequencerInv_runUop h hp hi hu
  | respond => exact sequencerInv_of_idle (by simp)

/-- No step changes the parameter KSB_W, and a step either leaves KSB as it is or writes a pattern of KSB_W bits
(R20, R201, R250; log 11). -/
theorem step_ksb {s t : State} (hs : step s = .next t) : t.ksbW = s.ksbW ∧ (t.ksb = s.ksb ∨ t.ksb < 2 ^ s.ksbW) := by
  cases step_next_cases hs with
  | reset => exact ⟨by simp, .inr (by simpa using (Config.freeKsb s.ksbW s.draws).isLt)⟩
  | accept _ _ hp =>
    obtain ⟨k, -, ha⟩ | ⟨-, ha⟩ := accept_cases hp (opOfCode s.pins.cmdOp) (portKsb s) <;>
      simp [ha, portKsb_lt]
  | kexp _ _ _ u hu =>
    obtain ⟨k, h60, v, -, -, ⟨-, rfl⟩ | ⟨-, rfl⟩⟩ := kexpUop_next hu <;> simp
  | run _ _ _ i hi u hu =>
    obtain ⟨-, rfl⟩ | ⟨-, v, rfl⟩ := runUop_next hi hu <;> simp
  | fn | idleWait | respond | doneWait => simp

/-- Settles O51, by what a step can do: the invariant through each phase's step, KSB through the two steps that write
it. -/
theorem invKept : Obligations.InvKept := by
  unfold Obligations.InvKept
  refine ⟨fun s t => sequencerInv_step, fun s t h hs => ?_⟩
  obtain ⟨hw, hk | hk⟩ := step_ksb hs
  · exact ⟨by simpa only [KsbFits, hw, hk] using h, hw⟩
  · exact ⟨by simpa only [KsbFits, hw] using hk, hw⟩

/-- Settles O50: reset is in IDLE, where the sequencer's invariant asks nothing, and the model's KSB is 0 there. -/
theorem invAtReset : Obligations.InvAtReset := by
  unfold Obligations.InvAtReset
  exact ⟨sequencerInv_of_idle rfl, Nat.two_pow_pos⟩

/-! ### Who writes what -/

/-- Settles O47, by what a step can do: each kind of step writes the registers of its own operation. -/
theorem writersOfRegisters : Obligations.WritersOfRegisters := by
  unfold Obligations.WritersOfRegisters
  intro s t hs hr
  cases step_next_cases hs with
  | reset hr' => simp [hr] at hr'
  | fn | idleWait | doneWait => simp
  | accept _ _ hp hv =>
    obtain ⟨k, hk, ha⟩ | ⟨hk, ha⟩ := accept_cases hp (opOfCode s.pins.cmdOp) (portKsb s) <;>
      simp [ha, hp, hv, hk]
  | kexp _ _ hp u hu =>
    obtain ⟨k, h60, v, hk, -, ⟨-, rfl⟩ | ⟨hlast, rfl⟩⟩ := kexpUop_next hu
    · simp [hp]
    · rw [scheduleWords_of_keySizeOf hk] at hlast
      simp [hp, hlast]
  | run _ _ hp i hi u hu =>
    obtain ⟨hlast, rfl⟩ | ⟨-, v, rfl⟩ := runUop_next hi hu
    · simp [hp, hlast]
    · simp [hp]
  | respond _ _ hp hy => simp [hp, hy]

/-- Settles O48, by what a step can do: only ACCEPT, the last KEXP step, STORESTATE and RESPOND write PHASE. -/
theorem phaseTransitions : Obligations.PhaseTransitions := by
  unfold Obligations.PhaseTransitions
  intro s t hs hr hne
  cases step_next_cases hs with
  | reset hr' => simp [hr] at hr'
  | fn | idleWait | doneWait => simp at hne
  | accept _ _ hp hv =>
    obtain ⟨k, hk, ha⟩ | ⟨hk, ha⟩ := accept_cases hp (opOfCode s.pins.cmdOp) (portKsb s) <;>
      simp [ha, hp, hv, hk]
  | kexp _ _ hp u hu =>
    obtain ⟨k, h60, v, hk, -, ⟨-, rfl⟩ | ⟨hlast, rfl⟩⟩ := kexpUop_next hu
    · simp at hne
    · rw [scheduleWords_of_keySizeOf hk] at hlast
      simp [hp, hlast]
  | run _ _ hp i hi u hu =>
    obtain ⟨hlast, rfl⟩ | ⟨-, v, rfl⟩ := runUop_next hi hu
    · simp [hp, hlast]
    · simp at hne
  | respond _ _ hp hy => simp [hp, hy]

/-- Settles O46: a command offered right after reset is ACCEPTed by the first step, which begins KEXP or ends in
DONE. -/
theorem resetState : Obligations.ResetState := by
  unfold Obligations.ResetState
  refine ⟨rfl, rfl, rfl, fun w p hr hv => ?_⟩
  have hstep := step_of_accepting (s := { State.reset with ksbW := w, pins := p }) ⟨hr, rfl, rfl, hv⟩
  refine ⟨_, hstep, ?_⟩
  obtain ⟨k, -, ha⟩ | ⟨-, ha⟩ := accept_cases (s := { State.reset with ksbW := w, pins := p }) rfl
    (opOfCode p.cmdOp) (p.cmdKsb % 2 ^ w) <;> simp [ha, portKsb]

end Sys2Proof.Machine
end

section
/-!
SUPPORT. What a step of KEXP and a step of RUN do under the sequencer's invariant (spec/10_state.md R28, R29, R33;
spec/42_key_expansion.md R135 to R139; spec/44_cipher_driver.md R172 to R177): both complete, count by one, and bring
DONE one step nearer.
-/
namespace Sys2Proof.Machine

/-! ### Schedules that agree below an index -/

/-- The words below `n` are the same in both. -/
def AgreeBelow (n : Nat) (w w' : Schedule) : Prop := ∀ (j : Nat) (h : j < 60), j < n → w'[j] = w[j]

/-- Writing the same word into both at the first index not covered covers it too. -/
theorem AgreeBelow.set {i : Nat} {w w' : Schedule} (h : AgreeBelow i w w') (hi : i < 60) (v : Word) :
    AgreeBelow (i + 1) (w.set i v hi) (w'.set i v hi) := by
  intro j hj hlt
  rw [Vector.getElem_set, Vector.getElem_set]
  split
  · rfl
  · exact h j hj (by omega)

/-! ### The word a KEXP step writes -/

/-- The word KEXP writes at index `i`: a word of the key below Nk, the recurrence from there on (R135, R136). -/
def nextWord (k : KeySize) (key : KeyBytes) (w : Schedule) (i : Nat) (hi : i < k.scheduleWords) : Word :=
  have hb := schedule_bounds k
  if h : i < k.words then keyWord key i (by omega)
  else xorWord w[i - k.words] (transform k i ⟨by omega, hi⟩ w[i - 1])

/-- It depends on the words below `i` alone. -/
theorem nextWord_congr (k : KeySize) (key : KeyBytes) {w w' : Schedule} {i : Nat} (hi : i < k.scheduleWords)
    (h : AgreeBelow i w w') : nextWord k key w' i hi = nextWord k key w i hi := by
  have hb := schedule_bounds k
  unfold nextWord
  split
  · rfl
  · simp only [h (i - k.words) (by omega) (by omega), h (i - 1) (by omega) (by omega)]

/-- A KEXP step at word KIDX: the word, the count, and after the last word the beginning of RUN (R135, R136). -/
def putNextWord (k : KeySize) (s : State) (hi : s.kidx.toNat < k.scheduleWords) : State :=
  have hb := schedule_bounds k
  let u := putWord s.kidx.toNat (by omega) (nextWord k s.key s.w s.kidx.toNat hi) s
  if s.kidx.toNat = k.scheduleWords - 1 then beginRun u else u

@[simp] theorem putNextWord_kidx (k : KeySize) (s : State) (hi : s.kidx.toNat < k.scheduleWords) :
    (putNextWord k s hi).kidx = s.kidx + 1#6 := by
  simp only [putNextWord]; split <;> rfl

/-- Within the schedule the uop of KEXP completes so (R139). -/
theorem exec_kexpUop {s : State} {k : KeySize} (hk : keySizeOf s.nk s.nr = some k)
    (hi : s.kidx.toNat < k.scheduleWords) : exec (kexpUop s) s = .next (putNextWord k s hi) := by
  have hnk := (toNat_of_keySizeOf hk).1
  by_cases h : s.kidx.toNat < k.words
  · have hlast : s.kidx.toNat ≠ k.scheduleWords - 1 := by
      have : k.words < k.scheduleWords - 1 := by cases k <;> decide
      omega
    simp only [kexpUop, hnk, h, if_true, exec, execKexpCopy_eq _ s k hk h, putNextWord, nextWord, dif_pos, hlast,
      if_false]
  · simp only [kexpUop, hnk, h, if_false, exec, execKexpWord_eq _ s k hk ⟨Nat.le_of_not_lt h, hi⟩, putNextWord,
      nextWord, dif_neg, not_false_eq_true]

/-- Within the schedule the uop of KEXP has a word (R83, R88). -/
theorem wellFormed_kexpUop {s : State} {k : KeySize} (w : Nat) (hk : keySizeOf s.nk s.nr = some k)
    (hi : s.kidx.toNat < k.scheduleWords) : (kexpUop s).wellFormed w = true := by
  have hb := schedule_bounds k
  have hnk := (toNat_of_keySizeOf hk).1
  unfold kexpUop
  split
  · exact decide_eq_true (by omega)
  · exact decide_eq_true (by omega)

/-- A KEXP step under the invariant, with no reset and nothing on a function unit's bus. -/
theorem step_kexp {s : State} {k : KeySize} (hr : s.pins.rst = false) (hf : s.fnIn = none) (hp : s.phase = .kexp)
    (hk : keySizeOf s.nk s.nr = some k) (hi : s.kidx.toNat < k.scheduleWords) :
    step s = .next (hostTurn (clearFn (putNextWord k s hi))) := by
  have ha : action s = .run (encode s.ksbW (kexpUop s)) := by simp [action, hr, hf, hp]
  rw [step_of_run ha (decodeOfEncode _ _ (wellFormed_kexpUop _ hk hi)), exec_kexpUop hk hi, afterRun]

/-! ### The State a RUN step writes -/

/-- The uops that transform the State, ADDROUNDKEY up to the round NR allows (R150 to R156). -/
def transformsState (nr : Nat) : Instr → Bool
  | .subbytes | .shiftrows | .mixcolumns | .invsubbytes | .invshiftrows | .invmixcolumns => true
  | .addroundkey round => decide (round.toNat ≤ nr)
  | _ => false

/-- What each of them makes of a State under a schedule (R150 to R156). -/
def transformed (i : Instr) (w : Schedule) (st : Block) : Block :=
  match i with
  | .subbytes => subBytes st
  | .shiftrows => shiftRows st
  | .mixcolumns => mixColumns st
  | .invsubbytes => invSubBytes st
  | .invshiftrows => invShiftRows st
  | .invmixcolumns => invMixColumns st
  | .addroundkey round => if h : round.toNat ≤ 14 then addRoundKey st (roundKey w round.toNat (by omega)) else st
  | _ => st

/-- A transform completes so, and counts (R174). -/
theorem exec_transformsState {s : State} {i : Instr} (hn : s.nr.toNat ≤ 14)
    (hi : transformsState s.nr.toNat i = true) : exec i s = .next (putState (transformed i s.w s.state) s) := by
  cases i with
  | subbytes | shiftrows | mixcolumns | invsubbytes | invshiftrows | invmixcolumns => rfl
  | addroundkey round =>
    have hr : round.toNat ≤ s.nr.toNat := of_decide_eq_true hi
    have h14 : round.toNat ≤ 14 := Nat.le_trans hr hn
    simp only [exec, execAddroundkey, hr, h14, and_self, dif_pos, transformed]
  | _ => cases hi

/-- A transform has a word (R83, R88). -/
theorem wellFormed_of_transformsState {nr : Nat} {i : Instr} (w : Nat) (hn : nr ≤ 14)
    (hi : transformsState nr i = true) : i.wellFormed w = true := by
  cases i with
  | subbytes | shiftrows | mixcolumns | invsubbytes | invshiftrows | invmixcolumns => rfl
  | addroundkey round => exact decide_eq_true (Nat.le_trans (of_decide_eq_true hi) hn)
  | _ => cases hi

/-- A round key depends on its own four words alone. -/
theorem roundKey_congr {w w' : Schedule} {round : Nat} (hr : 4 * round + 3 < 60)
    (h : AgreeBelow (4 * (round + 1)) w w') : roundKey w' round hr = roundKey w round hr := by
  apply Vector.ext
  intro b hb
  simp only [getElem_roundKey, h (4 * round + b / 4) (by omega) (by omega)]

/-- What a transform makes of a State depends on the words of the rounds up to NR alone. -/
theorem transformed_congr {nr : Nat} {i : Instr} {w w' : Schedule} (st : Block) (hi : transformsState nr i = true)
    (h : AgreeBelow (4 * (nr + 1)) w w') : transformed i w' st = transformed i w st := by
  cases i with
  | addroundkey round =>
    have hr : round.toNat ≤ nr := of_decide_eq_true hi
    simp only [transformed]
    split
    · rw [roundKey_congr _ fun j hj hlt => h j hj (by omega)]
    · rfl
  | _ => rfl

/-! ### The micro-programs by position -/

/-- What stands at a position of a micro-program: LOADSTATE first, STORESTATE last, a transform between (R172, R173). -/
inductive UopAt (nr upc : Nat) : Instr → Prop where
  | load (h : upc = 0) : UopAt nr upc .loadstate
  | transform (h : 0 < upc) {i : Instr} (hi : transformsState nr i = true) : UopAt nr upc i
  | store (h : upc = 4 * nr + 1) : UopAt nr upc .storestate

/-- A round that is at most NR may be added. -/
theorem transformsState_addroundkey {nr r : Nat} (h : r ≤ nr) :
    transformsState nr (.addroundkey (BitVec.ofNat 4 r)) = true := by
  have hle : r % 16 ≤ nr := Nat.le_trans (Nat.mod_le r 16) h
  simpa [transformsState] using hle

/-- Every position of the encryption sequence has such a uop (R172). -/
theorem uopEnc_at {nr upc : Nat} (hl : legalRounds nr = true) (hu : upc ≤ 4 * nr + 1) :
    ∃ i, uopEnc nr upc = some i ∧ UopAt nr upc i := by
  simp only [uopEnc, hl, Bool.not_true, Bool.false_eq_true, if_false]
  repeat' split
  · next h0 => exact ⟨_, rfl, .load h0⟩
  · exact ⟨_, rfl, .transform (by omega) (transformsState_addroundkey (Nat.zero_le nr))⟩
  · exact ⟨_, rfl, .transform (by omega) rfl⟩
  · exact ⟨_, rfl, .transform (by omega) rfl⟩
  · exact ⟨_, rfl, .transform (by omega) rfl⟩
  · exact ⟨_, rfl, .transform (by omega) (transformsState_addroundkey (by omega))⟩
  · exact ⟨_, rfl, .transform (by omega) rfl⟩
  · exact ⟨_, rfl, .transform (by omega) rfl⟩
  · exact ⟨_, rfl, .transform (by omega) (transformsState_addroundkey (Nat.le_refl nr))⟩
  · exact ⟨_, rfl, .store (by omega)⟩
  · omega

/-- Every position of the decryption sequence has such a uop (R173). -/
theorem uopDec_at {nr upc : Nat} (hl : legalRounds nr = true) (hu : upc ≤ 4 * nr + 1) :
    ∃ i, uopDec nr upc = some i ∧ UopAt nr upc i := by
  simp only [uopDec, hl, Bool.not_true, Bool.false_eq_true, if_false]
  repeat' split
  · next h0 => exact ⟨_, rfl, .load h0⟩
  · exact ⟨_, rfl, .transform (by omega) (transformsState_addroundkey (Nat.le_refl nr))⟩
  · exact ⟨_, rfl, .transform (by omega) rfl⟩
  · exact ⟨_, rfl, .transform (by omega) rfl⟩
  · exact ⟨_, rfl, .transform (by omega) (transformsState_addroundkey (by omega))⟩
  · exact ⟨_, rfl, .transform (by omega) rfl⟩
  · exact ⟨_, rfl, .transform (by omega) rfl⟩
  · exact ⟨_, rfl, .transform (by omega) rfl⟩
  · exact ⟨_, rfl, .transform (by omega) (transformsState_addroundkey (Nat.zero_le nr))⟩
  · exact ⟨_, rfl, .store (by omega)⟩
  · omega

/-- Under the invariant RUN has a uop for its position (R174, R176). -/
theorem runUop_at {s : State} {k : KeySize} (hk : keySizeOf s.nk s.nr = some k) (hu : s.upc.toNat ≤ 4 * k.rounds + 1) :
    ∃ i, runUop s = some i ∧ UopAt s.nr.toNat s.upc.toNat i := by
  have hnr := (toNat_of_keySizeOf hk).2
  have hl : legalRounds s.nr.toNat = true := by rw [hnr]; cases k <;> rfl
  rw [← hnr] at hu
  unfold runUop
  split
  · exact uopEnc_at hl hu
  · exact uopDec_at hl hu

/-- A uop of a micro-program has a word. -/
theorem UopAt.wellFormed {nr upc : Nat} {i : Instr} (h : UopAt nr upc i) (w : Nat) (hn : nr ≤ 14) :
    i.wellFormed w = true := by
  cases h with
  | load | store => rfl
  | transform _ hi => exact wellFormed_of_transformsState w hn hi

/-- A RUN step runs the uop of its position, with no reset and nothing on a function unit's bus. -/
theorem step_run {s : State} {i : Instr} (hr : s.pins.rst = false) (hf : s.fnIn = none) (hp : s.phase = .run)
    (hn : s.nr.toNat ≤ 14) (hi : runUop s = some i) (hat : UopAt s.nr.toNat s.upc.toNat i) :
    step s = afterRun (exec i s) := by
  have ha : action s = .run (encode s.ksbW i) := by simp [action, hr, hf, hp, hi]
  exact step_of_run ha (decodeOfEncode _ _ (hat.wellFormed _ hn))

/-- A uop of a micro-program completes and counts (R174). -/
theorem exec_uopAt {s : State} {i : Instr} (hn : s.nr.toNat ≤ 14) (hat : UopAt s.nr.toNat s.upc.toNat i) :
    ∃ u, exec i s = .next u ∧ u.upc = s.upc + 1#6 := by
  cases hat with
  | load | store => exact ⟨_, rfl, rfl⟩
  | transform _ hi => exact ⟨_, exec_transformsState hn hi, rfl⟩

/-- NR is at most 14 in a legal pair (R26). -/
theorem nr_le_of_keySizeOf {nk nr : BitVec 4} {k : KeySize} (hk : keySizeOf nk nr = some k) : nr.toNat ≤ 14 :=
  (toNat_of_keySizeOf hk).2 ▸ (rounds_bounds k).2

/-- Settles O49: under the invariant each step completes, KEXP within the schedule and RUN within its micro-program, and
the counters are below 63 there. -/
theorem countersAdvance : Obligations.CountersAdvance := by
  unfold Obligations.CountersAdvance
  intro s h hr hf
  constructor
  · intro hp
    obtain ⟨k, hk, -, -, hi⟩ := (sequencerInv_kexp_iff hp).mp h
    have hb := schedule_bounds k
    have hcount : (s.kidx + 1#6).toNat = s.kidx.toNat + 1 := toNat_succ_counter (by omega)
    refine ⟨_, step_kexp hr hf hp hk hi, ?_⟩
    simp only [hostTurn_kidx, clearFn_kidx, putNextWord_kidx, hcount, true_and]
    omega
  · intro hp
    obtain ⟨k, hk, -, -, hu⟩ := (sequencerInv_run_iff hp).mp h
    have hb := rounds_bounds k
    have hn := nr_le_of_keySizeOf hk
    have hcount : (s.upc + 1#6).toNat = s.upc.toNat + 1 := toNat_succ_counter (by omega)
    obtain ⟨i, hi, hat⟩ := runUop_at hk hu
    obtain ⟨u, he, hupc⟩ := exec_uopAt hn hat
    refine ⟨hostTurn (clearFn u), by rw [step_run hr hf hp hn hi hat, he, afterRun], ?_⟩
    simp only [hostTurn_upc, clearFn_upc, hupc, hcount, true_and]
    omega

end Sys2Proof.Machine
end

section
/-!
SUPPORT. What affects no result: the key bytes a key size does not use (spec/10_state.md R22, R205), and what earlier
commands left in the registers (R37, R38). The latter is a relation between two cores in the course of the same command,
which each step from ACCEPT to DONE keeps.
-/
namespace Sys2Proof.Machine

/-! ### The spare key bytes -/

/-- A word of the key depends on its own four bytes alone (R52). -/
theorem keyWord_congr {key key' : KeyBytes} {i : Nat} (hi : i < 8)
    (h : ∀ n, n < 4 * (i + 1) → key[n]? = key'[n]?) : keyWord key i hi = keyWord key' i hi := by
  apply Vector.ext
  intro j hj
  have hbyte : key[4 * i + j]? = key'[4 * i + j]? := h _ (by omega)
  rw [Vector.getElem?_eq_getElem (by omega), Vector.getElem?_eq_getElem (by omega)] at hbyte
  simpa using hbyte

/-- A partial expansion depends on the first 4 Nk key bytes alone. -/
theorem expandWords_congr (k : KeySize) {key key' : KeyBytes} (h : ∀ n, n < 4 * k.words → key[n]? = key'[n]?)
    (n : Nat) (hn : n ≤ k.scheduleWords) : expandWords k key n hn = expandWords k key' n hn := by
  induction n with
  | zero => rfl
  | succ n ih =>
    simp only [expandWords, ih (by omega)]
    split
    · rw [keyWord_congr _ fun j hj => h j (by omega)]
    · rfl

/-- Settles O22, by induction on the words of the schedule: only those below Nk are read from the key, and a response
reads the key through the schedule alone. -/
theorem spareKeyBytesIgnored : Obligations.SpareKeyBytesIgnored := by
  unfold Obligations.SpareKeyBytesIgnored
  intro op ksb key key' block k hk h
  have hw : keyExpand k key = keyExpand k key' := expandWords_congr k h _ _
  exact ⟨hw, by simp only [command, hk, transformBlock, hw]⟩

/-! ### The steps left to DONE (R177) -/

section

variable {s : State}

theorem remaining_kexp (hp : s.phase = .kexp) :
    remaining s = (4 * (s.nr.toNat + 1) - s.kidx.toNat) + (4 * s.nr.toNat + 2) := by
  simp only [remaining, hp]

theorem remaining_run (hp : s.phase = .run) : remaining s = 4 * s.nr.toNat + 2 - s.upc.toNat := by
  simp only [remaining, hp]

theorem remaining_done (hp : s.phase = .done) : remaining s = 0 := by
  simp only [remaining, hp]

@[simp] theorem remaining_hostTurn : remaining (hostTurn s) = remaining s := by
  simp [remaining]

@[simp] theorem remaining_clearFn : remaining (clearFn s) = remaining s := rfl

end

/-- A KEXP step leaves one step less. -/
theorem remaining_kexpUop {s u : State} (hp : s.phase = .kexp) (hu : exec (kexpUop s) s = .next u) :
    remaining u + 1 = remaining s := by
  obtain ⟨k, h60, v, hk, hi, hcase⟩ := kexpUop_next hu
  have hsw := scheduleWords_of_keySizeOf hk
  rw [remaining_kexp hp]
  obtain ⟨hne, rfl⟩ | ⟨hlast, rfl⟩ := hcase
  · rw [remaining_kexp (s := putWord _ h60 v s) hp, putWord_kidx, putWord_nr, toNat_succ_counter (by omega)]
    omega
  · rw [remaining_run rfl, beginRun_nr, putWord_nr, beginRun_upc, BitVec.toNat_zero]
    omega

/-- A RUN step leaves one step less. -/
theorem remaining_runUop {s u : State} {i : Instr} (hp : s.phase = .run) (hn : s.nr.toNat ≤ 14)
    (hi : runUop s = some i) (hu : exec i s = .next u) : remaining u + 1 = remaining s := by
  rw [remaining_run hp]
  obtain ⟨hlast, rfl⟩ | ⟨hle, v, rfl⟩ := runUop_next hi hu
  · rw [remaining_done rfl]
    omega
  · rw [remaining_run (s := putState v s) hp, putState_nr, putState_upc, toNat_succ_counter (by omega)]
    omega

/-- Under the invariant a busy core has a step left. -/
theorem remaining_pos {s : State} (h : SequencerInv s) (hp : s.phase = .kexp ∨ s.phase = .run) : 0 < remaining s := by
  obtain hp | hp := hp
  · rw [remaining_kexp hp]
    omega
  · obtain ⟨k, hk, -, -, hu⟩ := (sequencerInv_run_iff hp).mp h
    have hnr := (toNat_of_keySizeOf hk).2
    rw [remaining_run hp]
    omega

/-! ### A core left alone -/

/-- No reset now or to come, and nothing on a function unit's bus (log 5). -/
def LeftAlone (s : State) : Prop := s.fnIn = none ∧ NoReset s

/-- A core left alone stays so over the host's turn. -/
theorem leftAlone_hostTurn {s u : State} (h : LeftAlone s) (hf : u.fnIn = none) (hpins : u.pins = s.pins)
    (hplan : u.plan = s.plan) : LeftAlone (hostTurn u) := by
  obtain ⟨-, hr, hall⟩ := h
  refine ⟨by simpa using hf, ?_⟩
  cases hcase : s.plan with
  | nil => simp [NoReset, hpins, hplan, hcase, hr]
  | cons p ps => simpa [NoReset, hostTurn, hplan, hcase] using hall

/-- A core left alone stays so over every step: no step writes the wires or the plan. -/
theorem leftAlone_step {s t : State} (h : LeftAlone s) (hs : step s = .next t) : LeftAlone t := by
  cases step_next_cases hs with
  | reset hr => simp [h.2.1] at hr
  | fn _ _ hf => simp [h.1] at hf
  | idleWait hr hf | doneWait hr hf => exact leftAlone_hostTurn h hf rfl rfl
  | accept _ _ hp =>
    obtain ⟨k, -, ha⟩ | ⟨-, ha⟩ := accept_cases hp (opOfCode s.pins.cmdOp) (portKsb s) <;>
      rw [ha] <;> exact leftAlone_hostTurn h rfl rfl rfl
  | kexp _ _ _ u hu =>
    obtain ⟨k, h60, v, -, -, ⟨-, rfl⟩ | ⟨-, rfl⟩⟩ := kexpUop_next hu <;> exact leftAlone_hostTurn h rfl rfl rfl
  | run _ _ _ i hi u hu =>
    obtain ⟨-, rfl⟩ | ⟨-, v, rfl⟩ := runUop_next hi hu <;> exact leftAlone_hostTurn h rfl rfl rfl
  | respond _ hf => exact leftAlone_hostTurn h hf rfl rfl

/-! ### A busy step -/

/-- A step of a busy core leaves one step less to DONE (R177). -/
theorem remaining_step {s t : State} (hinv : SequencerInv s) (hbusy : s.phase = .kexp ∨ s.phase = .run)
    (ha : LeftAlone s) (hs : step s = .next t) : remaining t + 1 = remaining s := by
  cases step_next_cases hs with
  | reset hr => simp [ha.2.1] at hr
  | fn _ _ hf => simp [ha.1] at hf
  | idleWait _ _ hp | accept _ _ hp | respond _ _ hp | doneWait _ _ hp => simp [hp] at hbusy
  | kexp _ _ hp u hu => simpa using remaining_kexpUop hp hu
  | run _ _ hp i hi u hu =>
    obtain ⟨k, hk, -⟩ := (sequencerInv_run_iff hp).mp hinv
    simpa using remaining_runUop hp (nr_le_of_keySizeOf hk) hi hu

/-- A busy core does not become idle without a response (R27). -/
theorem phase_ne_idle_of_busy {s t : State} (hbusy : s.phase = .kexp ∨ s.phase = .run) (ha : LeftAlone s)
    (hs : step s = .next t) : t.phase ≠ .idle := by
  intro ht
  have hne : t.phase ≠ s.phase := by
    obtain hp | hp := hbusy <;> simp [ht, hp]
  obtain ⟨hdone, -⟩ : s.phase = .done ∧ s.pins.rspReady = true := by
    simpa [ht] using phaseTransitions s t hs ha.2.1 hne
  simp [hdone] at hbusy

/-! ### Two cores in the course of the same command -/

/-- Both cores are in the course of the same command: the same latched operands and position, and the same data as far
as that position has written it. What else their registers hold may differ (R38). -/
structure SameCommand (s s' : State) : Prop where
  key : s'.key = s.key
  blk : s'.blk = s.blk
  op : s'.op = s.op
  status : s'.status = s.status
  phase : s'.phase = s.phase
  pair : s.phase ≠ .done → s'.nk = s.nk ∧ s'.nr = s.nr
  expanded : s.phase = .kexp → s'.kidx = s.kidx ∧ AgreeBelow s.kidx.toNat s.w s'.w
  ciphered : s.phase = .run → s'.upc = s.upc ∧ AgreeBelow (4 * (s.nr.toNat + 1)) s.w s'.w ∧
    (0 < s.upc.toNat → s'.state = s.state)
  answered : s.phase = .done → s.status = .ok → s'.out = s.out

/-- The host's turn and a function unit's bus have no part in it. -/
theorem SameCommand.after {s s' : State} (h : SameCommand s s') :
    SameCommand (hostTurn (clearFn s)) (hostTurn (clearFn s')) where
  key := by simpa using h.key
  blk := by simpa using h.blk
  op := by simpa using h.op
  status := by simpa using h.status
  phase := by simpa using h.phase
  pair := by simpa using h.pair
  expanded := by simpa using h.expanded
  ciphered := by simpa using h.ciphered
  answered := by simpa using h.answered

/-- ACCEPT of the same values on two idle cores begins it (R201, R202). -/
theorem sameCommand_accept {s s' : State} (hp : s.phase = .idle) (hp' : s'.phase = .idle) (hpins : s'.pins = s.pins)
    (op : Op) (ksb : Ksb) : SameCommand (accept op ksb s) (accept op ksb s') := by
  cases hk : decodeKsb ksb with
  | some k =>
    rw [accept_valid hp op hk, accept_valid hp' op hk]
    constructor <;> simp [hpins, AgreeBelow]
  | none =>
    rw [accept_invalid hp op hk, accept_invalid hp' op hk]
    constructor <;> simp [hpins]

/-- The same word written at KIDX keeps it. -/
theorem SameCommand.putWord {s s' : State} (h : SameCommand s s') (hp : s.phase = .kexp) (h60 : s.kidx.toNat < 60)
    (v : Word) : SameCommand (putWord s.kidx.toNat h60 v s) (putWord s.kidx.toNat h60 v s') := by
  obtain ⟨hkidx, hw⟩ := h.expanded hp
  have hcount : (s.kidx + 1#6).toNat = s.kidx.toNat + 1 := toNat_succ_counter (by omega)
  exact {
    key := h.key, blk := h.blk, op := h.op, status := h.status, phase := h.phase, pair := h.pair
    expanded := fun _ => ⟨congrArg (· + 1#6) hkidx, by rw [putWord_kidx, hcount]; exact hw.set h60 v⟩
    ciphered := by simp [hp]
    answered := by simp [hp] }

/-- Once the whole schedule is written, beginning RUN keeps it (R136). -/
theorem SameCommand.beginRun {s s' : State} (h : SameCommand s s') (hp : s.phase = .kexp)
    (hall : s.kidx.toNat = 4 * (s.nr.toNat + 1)) : SameCommand (beginRun s) (beginRun s') where
  key := h.key
  blk := h.blk
  op := h.op
  status := h.status
  phase := rfl
  pair := fun _ => h.pair (by simp [hp])
  expanded := by simp
  ciphered := fun _ => ⟨rfl, hall ▸ (h.expanded hp).2, by simp⟩
  answered := by simp

/-- The next word of KEXP is the same in both (R38). -/
theorem SameCommand.putNextWord {s s' : State} {k : KeySize} (h : SameCommand s s') (hp : s.phase = .kexp)
    (hk : keySizeOf s.nk s.nr = some k) (hi : s.kidx.toNat < k.scheduleWords) (hi' : s'.kidx.toNat < k.scheduleWords) :
    SameCommand (putNextWord k s hi) (putNextWord k s' hi') := by
  obtain ⟨hkidx, hw⟩ := h.expanded hp
  have hb := schedule_bounds k
  have hword := h.putWord hp (by omega) (nextWord k s.key s.w s.kidx.toNat hi)
  simp only [Machine.putNextWord, hkidx, h.key, nextWord_congr k s.key hi hw]
  split
  · next hlast =>
    have hcount : (s.kidx + 1#6).toNat = s.kidx.toNat + 1 := toNat_succ_counter (by omega)
    have hsw := scheduleWords_of_keySizeOf hk
    exact hword.beginRun hp (by rw [putWord_kidx, putWord_nr, hcount]; omega)
  · exact hword

/-- The same State written in RUN keeps it, at whatever position. -/
theorem SameCommand.putState {s s' : State} (h : SameCommand s s') (hp : s.phase = .run) (v : Block) :
    SameCommand (putState v s) (putState v s') := by
  obtain ⟨hupc, hw, -⟩ := h.ciphered hp
  exact {
    key := h.key, blk := h.blk, op := h.op, status := h.status, phase := h.phase, pair := h.pair
    expanded := by simp [hp]
    ciphered := fun _ => ⟨congrArg (· + 1#6) hupc, hw, fun _ => rfl⟩
    answered := by simp [hp] }

/-- Once the State is written, STORESTATE keeps it (R171). -/
theorem SameCommand.putOut {s s' : State} (h : SameCommand s s') (hstate : s'.state = s.state) :
    SameCommand (putOut s) (putOut s') where
  key := h.key
  blk := h.blk
  op := h.op
  status := h.status
  phase := rfl
  pair := by simp
  expanded := by simp
  ciphered := by simp
  answered := fun _ _ => hstate

/-- The uop of a RUN step completes in both, and keeps it (R38). -/
theorem SameCommand.exec_uopAt {s s' : State} {i : Instr} (h : SameCommand s s') (hp : s.phase = .run)
    (hn : s.nr.toNat ≤ 14) (hat : UopAt s.nr.toNat s.upc.toNat i) :
    ∃ u u', exec i s = .next u ∧ exec i s' = .next u' ∧ SameCommand u u' := by
  obtain ⟨hupc, hw, hstate⟩ := h.ciphered hp
  obtain ⟨-, hnr⟩ := h.pair (by simp [hp])
  cases hat with
  | load =>
    exact ⟨_, _, rfl, rfl, h.blk ▸ h.putState hp _⟩
  | transform hpos hi =>
    have hv : transformed i s'.w s'.state = transformed i s.w s.state := by
      rw [hstate hpos, transformed_congr _ hi hw]
    refine ⟨_, _, exec_transformsState hn hi, exec_transformsState (hnr ▸ hn) (hnr ▸ hi), ?_⟩
    rw [hv]
    exact h.putState hp _
  | store hlast => exact ⟨_, _, rfl, rfl, h.putOut (hstate (by omega))⟩

/-- Each busy step completes on both cores and keeps it (R38, R203). -/
theorem sameCommand_step {s s' : State} (h : SameCommand s s') (hinv : SequencerInv s)
    (hp : s.phase = .kexp ∨ s.phase = .run) (ha : LeftAlone s) (ha' : LeftAlone s') :
    ∃ t t', step s = .next t ∧ step s' = .next t' ∧ SameCommand t t' := by
  obtain ⟨hf, hr, -⟩ := ha
  obtain ⟨hf', hr', -⟩ := ha'
  obtain hp | hp := hp
  · obtain ⟨k, hk, -, -, hi⟩ := (sequencerInv_kexp_iff hp).mp hinv
    obtain ⟨hnk, hnr⟩ := h.pair (by simp [hp])
    have hi' : s'.kidx.toNat < k.scheduleWords := by rwa [(h.expanded hp).1]
    exact ⟨_, _, step_kexp hr hf hp hk hi, step_kexp hr' hf' (h.phase.trans hp) (by rw [hnk, hnr, hk]) hi',
      (h.putNextWord hp hk hi hi').after⟩
  · obtain ⟨k, hk, -, -, hu⟩ := (sequencerInv_run_iff hp).mp hinv
    obtain ⟨-, hnr⟩ := h.pair (by simp [hp])
    have hupc := (h.ciphered hp).1
    have hn := nr_le_of_keySizeOf hk
    obtain ⟨i, hi, hat⟩ := runUop_at hk hu
    have hi' : runUop s' = some i := by simpa only [runUop, h.op, hnr, hupc] using hi
    obtain ⟨u, u', he, he', hsame⟩ := h.exec_uopAt hp hn hat
    refine ⟨_, _, ?_, ?_, hsame.after⟩
    · rw [step_run hr hf hp hn hi hat, he, afterRun]
    · rw [step_run hr' hf' (h.phase.trans hp) (hnr ▸ hn) hi' (by rwa [hnr, hupc]), he', afterRun]

/-- In DONE both offer a response, and the same one (R85). -/
theorem SameCommand.offered_eq {s s' : State} (h : SameCommand s s') (hp : s.phase = .done) :
    offered s = offered s' ∧ (offered s).isSome = true := by
  have hp' : s'.phase = .done := h.phase.trans hp
  cases hst : s.status with
  | ok => simp [offered, rspValid, hp, hp', h.status, h.answered hp hst]
  | invalidKeySize => simp [offered, rspValid, hp, hp', h.status, hst, responseOf]

/-! ### The run to DONE -/

/-- A run whose first step is known goes on from there. -/
theorem core_run_succ {s t : State} (hs : step s = .next t) (n : Nat) :
    Host.Core.run core (n + 1) s = Host.Core.run core n t := by
  simp only [Host.Core.run, core, hs]

/-- The steps left bring both cores to DONE in the course of the same command. -/
theorem run_to_done {s s' : State} (h : SameCommand s s') (hinv : SequencerInv s) (hp : s.phase ≠ .idle)
    (ha : LeftAlone s) (ha' : LeftAlone s') :
    ∃ t t' : State, Host.Core.run core (remaining s) s = .next t ∧ Host.Core.run core (remaining s) s' = .next t' ∧
      SameCommand t t' ∧ t.phase = .done := by
  induction hn : remaining s generalizing s s' with
  | zero =>
    have hdone : s.phase = .done := by
      cases hph : s.phase with
      | idle => exact absurd hph hp
      | kexp => exact absurd hn (Nat.ne_of_gt (remaining_pos hinv (.inl hph)))
      | run => exact absurd hn (Nat.ne_of_gt (remaining_pos hinv (.inr hph)))
      | done => rfl
    exact ⟨s, s', rfl, rfl, h, hdone⟩
  | succ n ih =>
    have hbusy : s.phase = .kexp ∨ s.phase = .run := by
      cases hph : s.phase with
      | idle => exact absurd hph hp
      | kexp => exact .inl rfl
      | run => exact .inr rfl
      | done => rw [remaining_done hph] at hn; cases hn
    obtain ⟨t, t', hs, hs', hsame⟩ := sameCommand_step h hinv hbusy ha ha'
    have hrem := remaining_step hinv hbusy ha hs
    rw [core_run_succ hs, core_run_succ hs']
    exact ih hsame (sequencerInv_step hinv hs) (phase_ne_idle_of_busy hbusy ha hs) (leftAlone_step ha hs)
      (leftAlone_step ha' hs') (by omega)

/-- ACCEPT leaves the core out of IDLE, with all but itself of the command's steps to go (R177). -/
theorem accept_remaining {s : State} (hp : s.phase = .idle) (op : Op) (ksb : Ksb) :
    (accept op ksb s).phase ≠ .idle ∧ stepsToDone ksb = remaining (accept op ksb s) + 1 := by
  obtain ⟨k, hk, ha⟩ | ⟨hk, ha⟩ := accept_cases hp op ksb
  · have hnr := (toNat_of_keySizeOf (keySizeOf_words_rounds k)).2
    rw [ha, remaining_kexp rfl]
    refine ⟨by simp, ?_⟩
    simp only [stepsToDone, hk, beginKexp_nr, beginKexp_kidx, hnr, KeySize.scheduleWords, BitVec.toNat_zero]
    omega
  · rw [ha, remaining_done rfl]
    exact ⟨by simp, by simp only [stepsToDone, hk]⟩

/-- Settles O59: the two cores are in the course of the same command from ACCEPT on, and so offer the same response in
DONE. -/
theorem residueUnobservable : Obligations.ResidueUnobservable := by
  unfold Obligations.ResidueUnobservable
  intro s s' hw hp hp' hpins hplan hf hf' hv hnr
  have hnr' : NoReset s' := by simpa only [NoReset, hpins, hplan] using hnr
  have hport : portKsb s' = portKsb s := by simp only [portKsb, hw, hpins]
  have hs := step_of_accepting ⟨hnr.1, hf, hp, hv⟩
  have hs' := step_of_accepting ⟨hnr'.1, hf', hp', hpins ▸ hv⟩
  rw [hport, ← hpins] at hs'
  obtain ⟨hidle, hcount⟩ := accept_remaining hp (opOfCode s.pins.cmdOp) (portKsb s)
  have hsame := (sameCommand_accept hp hp' hpins.symm (opOfCode s.pins.cmdOp) (portKsb s)).after
  obtain ⟨t, t', ht, ht', hdone, hpd⟩ := run_to_done hsame
    (sequencerInv_step (sequencerInv_of_idle hp) hs) (by simpa using hidle)
    (leftAlone_step ⟨hf, hnr⟩ hs) (leftAlone_step ⟨hf', hnr'⟩ hs')
  rw [remaining_hostTurn, remaining_clearFn] at ht ht'
  refine ⟨t, t', ?_, ?_, hdone.offered_eq hpd⟩
  · rw [hcount, core_run_succ hs, ht]
  · rw [hcount, core_run_succ hs', ht']

end Sys2Proof.Machine
end

section
/-!
SUPPORT. The bus packing (spec/20_memory.md R54): which bit of which byte each bit of a bus is, for a bus that is read
and for a bus that is put together, then that the two are inverse to each other.
-/
namespace Sys2Proof.Machine

/-- A list of bytes fills no more bits than its own. -/
theorem packList_lt : ∀ bytes : List Byte, packList bytes < 2 ^ (8 * bytes.length)
  | [] => Nat.one_pos
  | b :: bs => by
    have hlow := packList_lt bs
    have htop : (b.toNat + 1) * 2 ^ (8 * bs.length) ≤ 2 ^ 8 * 2 ^ (8 * bs.length) :=
      Nat.mul_le_mul_right _ b.isLt
    rw [List.length_cons, Nat.mul_succ, Nat.add_comm, Nat.pow_add, packList]
    rw [Nat.succ_mul] at htop
    omega

/-- The bits of the first byte stand above those of all the others. -/
theorem testBit_packList_cons (b : Byte) (bs : List Byte) (j : Nat) :
    (packList (b :: bs)).testBit j =
      if j < 8 * bs.length then (packList bs).testBit j else b.getLsbD (j - 8 * bs.length) := by
  rw [packList, Nat.mul_comm, Nat.testBit_two_pow_mul_add _ (packList_lt bs), BitVec.getLsbD]

/-- Bit `i` of byte `k` in a packed list of bytes (R54). -/
theorem testBit_packList (bytes : List Byte) (k : Nat) (hk : k < bytes.length) (i : Nat) (hi : i < 8) :
    (packList bytes).testBit (8 * (bytes.length - 1 - k) + i) = bytes[k].getLsbD i := by
  induction bytes generalizing k with
  | nil => exact absurd hk (Nat.not_lt_zero k)
  | cons b bs ih =>
    rw [testBit_packList_cons]
    cases k with
    | zero =>
      have hpos : (b :: bs).length - 1 - 0 = bs.length := rfl
      rw [hpos, if_neg (Nat.not_lt.mpr (Nat.le_add_right _ i)), Nat.add_sub_cancel_left, List.getElem_cons_zero]
    | succ k =>
      have hk' : k < bs.length := Nat.lt_of_succ_lt_succ hk
      have hpos : (b :: bs).length - 1 - (k + 1) = bs.length - 1 - k := by rw [List.length_cons]; omega
      rw [hpos, if_pos (by omega), ih k hk', List.getElem_cons_succ]

/-- Bit `i` of byte `k` on a bus that carries a byte vector (R54). -/
theorem getLsbD_busOf {n : Nat} (v : Bytes n) (k : Nat) (hk : k < n) (i : Nat) (hi : i < 8) :
    (busOf v).getLsbD (8 * (n - 1 - k) + i) = v[k].getLsbD i := by
  have hbit := testBit_packList v.toList k (Vector.length_toList.symm ▸ hk) i hi
  simp only [Vector.length_toList, Vector.getElem_toList] at hbit
  have hpos : 8 * (n - 1 - k) + i < 8 * n := by omega
  rw [busOf, BitVec.getLsbD_ofNat, hbit, decide_eq_true hpos, Bool.true_and]

/-- Bit `i` of byte `k` of the vector read from a bus (R54). -/
theorem getLsbD_getElem_busBytes {n : Nat} (bus : BitVec (8 * n)) (k : Nat) (hk : k < n) (i : Nat) (hi : i < 8) :
    (busBytes n bus)[k].getLsbD i = bus.getLsbD (8 * (n - 1 - k) + i) := by
  rw [getElem_busBytes, BitVec.getLsbD_extractLsb', decide_eq_true hi, Bool.true_and]

/-- Every bit of a bus is a bit of one of its bytes. -/
theorem exists_bit_of_byte {n j : Nat} (hj : j < 8 * n) : ∃ k i, k < n ∧ i < 8 ∧ j = 8 * (n - 1 - k) + i :=
  ⟨n - 1 - j / 8, j % 8, by omega, by omega, by omega⟩

/-- Packing the bytes of a bus gives the bus. -/
@[simp] theorem busOf_busBytes {n : Nat} (bus : BitVec (8 * n)) : busOf (busBytes n bus) = bus := by
  refine BitVec.eq_of_getLsbD_eq fun j hj => ?_
  obtain ⟨k, i, hk, hi, rfl⟩ := exists_bit_of_byte hj
  rw [getLsbD_busOf _ k hk i hi, getLsbD_getElem_busBytes bus k hk i hi]

/-- The bytes of a packed bus are the bytes packed. -/
@[simp] theorem busBytes_busOf {n : Nat} (v : Bytes n) : busBytes n (busOf v) = v := by
  refine Vector.ext fun k hk => BitVec.eq_of_getLsbD_eq fun i hi => ?_
  rw [getLsbD_getElem_busBytes _ k hk i hi, getLsbD_busOf v k hk i hi]

/-- Settles O42, by the place of each bit: bit `i` of byte `k` is the same bit of the bus both ways, and every bit of the
bus is such a bit. -/
theorem busPacking : Obligations.BusPacking := by
  unfold Obligations.BusPacking
  intro n bus v
  exact ⟨getLsbD_getElem_busBytes bus, getLsbD_busOf v, busOf_busBytes bus, busBytes_busOf v⟩

end Sys2Proof.Machine
end

section
/-!
SUPPORT. What the sequencer presents (spec/30_encoding.md R81, R83; spec/42_key_expansion.md R139;
spec/44_cipher_driver.md R91, R172 to R174): one rule for each place an encoded instruction comes from, the uops of the
micro-programs by position, and that an instruction placed by `withFetchWord` is presented by the next step.
-/
namespace Sys2Proof.Machine

/-! ### What a step presents, place by place -/

section

variable {s : State}

/-- An operand on a function unit's bus is presented first (R84; log 5). -/
theorem action_of_fnIn {bus : FnBus} (hr : s.pins.rst = false) (hf : s.fnIn = some bus) :
    action s = .run (.fn bus) := by
  simp [action, hr, hf]

/-- IDLE presents the command word on the port (R81, R201). -/
theorem action_of_idle (hr : s.pins.rst = false) (hf : s.fnIn = none) (hp : s.phase = .idle)
    (hv : s.pins.cmdValid = true) : action s = .run (cmdWord s.ksbW s.pins.cmdOp s.pins.cmdKsb) := by
  simp [action, hr, hf, hp, hv]

/-- KEXP presents the word of its uop (R83, R139). -/
theorem action_of_kexp (hr : s.pins.rst = false) (hf : s.fnIn = none) (hp : s.phase = .kexp) :
    action s = .run (encode s.ksbW (kexpUop s)) := by
  simp [action, hr, hf, hp]

/-- RUN presents the word of the uop at its position (R83, R174). -/
theorem action_of_run {i : Instr} (hr : s.pins.rst = false) (hf : s.fnIn = none) (hp : s.phase = .run)
    (hi : runUop s = some i) : action s = .run (encode s.ksbW i) := by
  simp [action, hr, hf, hp, hi]

/-- While KIDX is below NK the uop of KEXP copies (R139). -/
theorem kexpUop_of_lt (h : s.kidx.toNat < s.nk.toNat) : kexpUop s = .kexpCopy s.kidx := if_pos h

/-- From NK on the uop of KEXP computes a word (R139). -/
theorem kexpUop_of_le (h : s.nk.toNat ≤ s.kidx.toNat) : kexpUop s = .kexpWord s.kidx := if_neg (Nat.not_lt.mpr h)

theorem runUop_encrypt (ho : s.op = .encrypt) : runUop s = uopEnc s.nr.toNat s.upc.toNat := by
  simp only [runUop, ho]

theorem runUop_decrypt (ho : s.op = .decrypt) : runUop s = uopDec s.nr.toNat s.upc.toNat := by
  simp only [runUop, ho]

end

/-- Settles O6: the rule of each place, the uop's word written out. -/
theorem stepPresents : Obligations.StepPresents := by
  unfold Obligations.StepPresents
  intro s hr
  refine ⟨fun bus hf => action_of_fnIn hr hf, fun hf => ⟨action_of_idle hr hf, ?_, ?_, ?_, ?_⟩⟩
  · intro hp hlt
    rw [action_of_kexp hr hf hp, kexpUop_of_lt hlt]; rfl
  · intro hp hle
    rw [action_of_kexp hr hf hp, kexpUop_of_le hle]; rfl
  · intro u hp ho hu
    exact action_of_run hr hf hp ((runUop_encrypt ho).trans hu)
  · intro u hp ho hu
    exact action_of_run hr hf hp ((runUop_decrypt ho).trans hu)

/-! ### The micro-programs, round by round -/

/-- The four positions of the `m`-th main round, counted from 0; the last round is at the same distance (R172, R173). -/
def roundPositions (m : Nat) : List Nat := (List.range 4).map (4 * m + 2 + ·)

/-- Two positions, then four for each round: `m` rounds take the positions below `4 m + 2`. -/
theorem range_eq_rounds (m : Nat) : List.range (4 * m + 2) = [0, 1] ++ (List.range m).flatMap roundPositions := by
  induction m with
  | zero => rfl
  | succ m ih =>
    have hnext : (List.range 4).map (4 * m + 2 + ·) = roundPositions m := rfl
    rw [show 4 * (m + 1) + 2 = 4 * m + 2 + 4 by omega, List.range_add, hnext, ih, List.range_succ,
      List.flatMap_append, List.flatMap_singleton, List.append_assoc]

/-- Four uops stand at the positions of a round when each stands at its own. -/
theorem map_roundPositions {f : Nat → Option Instr} {m : Nat} {a b c d : Instr}
    (h : ∀ j, j < 4 → f (4 * m + 2 + j) = [a, b, c, d][j]?) :
    (roundPositions m).map f = [a, b, c, d].map some := by
  rw [roundPositions, List.map_map]
  exact List.map_congr_left fun j hj => h j (List.mem_range.mp hj)

/-- The four places in a round. -/
theorem place_cases {j : Nat} (hj : j < 4) : j = 0 ∨ j = 1 ∨ j = 2 ∨ j = 3 := by
  omega

/-- The round and the place in it that the micro-programs compute from a position. -/
theorem round_of_position (m : Nat) {j : Nat} (hj : j < 4) :
    (4 * m + 2 + j - 2) / 4 = m ∧ (4 * m + 2 + j - 2) % 4 = j := by
  omega

section

variable {nr : Nat}

/-- What stands at the first two positions, at those of each main round and at the last four, in that order, is the
whole sequence of NR rounds. -/
theorem map_range_of_rounds {f : Nat → Option Instr} {first last : List Instr} {round : Nat → List Instr}
    (hpos : 0 < nr) (hfirst : [0, 1].map f = first.map some)
    (hround : ∀ m, m < nr - 1 → (roundPositions m).map f = (round m).map some)
    (hlast : (roundPositions (nr - 1)).map f = last.map some) :
    (List.range (4 * nr + 2)).map f = (first ++ (List.range (nr - 1)).flatMap round ++ last).map some := by
  have hrounds : (List.range (nr - 1)).flatMap (fun m => (roundPositions m).map f) =
      (List.range (nr - 1)).flatMap (fun m => (round m).map some) := by
    rw [List.flatMap_def, List.flatMap_def, List.map_congr_left fun m hm => hround m (List.mem_range.mp hm)]
  obtain ⟨n, rfl⟩ : ∃ n, nr = n + 1 := ⟨nr - 1, by omega⟩
  simp only [Nat.add_sub_cancel] at hrounds hlast ⊢
  simp only [range_eq_rounds, List.range_succ, List.flatMap_append, List.flatMap_singleton, List.map_append,
    List.map_flatMap, hfirst, hrounds, hlast, List.append_assoc]

variable (hl : legalRounds nr = true)

include hl

theorem one_lt_of_legalRounds : 1 < nr := by
  simp [legalRounds] at hl; omega

/-- The uops of main round `m + 1` of encryption stand at its four positions (R172). -/
theorem uopEnc_round {m j : Nat} (hm : m < nr - 1) (hj : j < 4) :
    uopEnc nr (4 * m + 2 + j) = (roundUops (m + 1))[j]? := by
  obtain ⟨hdiv, hmod⟩ := round_of_position m hj
  rw [uopEnc, hl, if_neg nofun, if_neg (by omega), if_neg (by omega), if_pos (by omega), hdiv, hmod]
  obtain rfl | rfl | rfl | rfl := place_cases hj <;> rfl

/-- The last round of encryption and STORESTATE (R172). -/
theorem uopEnc_last {j : Nat} (hj : j < 4) :
    uopEnc nr (4 * (nr - 1) + 2 + j) =
      [Instr.subbytes, .shiftrows, .addroundkey (BitVec.ofNat 4 nr), .storestate][j]? := by
  have hpos := one_lt_of_legalRounds hl
  rw [uopEnc, hl, if_neg nofun, if_neg (by omega), if_neg (by omega), if_neg (by omega)]
  obtain rfl | rfl | rfl | rfl := place_cases hj <;> simp (disch := omega) only [if_pos, if_neg] <;> rfl

/-- The uops of main round `m + 1` of decryption, the round numbers counting down (R173). -/
theorem uopDec_round {m j : Nat} (hm : m < nr - 1) (hj : j < 4) :
    uopDec nr (4 * m + 2 + j) = (invRoundUops (nr - 1 - m))[j]? := by
  obtain ⟨hdiv, hmod⟩ := round_of_position m hj
  rw [uopDec, hl, if_neg nofun, if_neg (by omega), if_neg (by omega), if_pos (by omega), hdiv, hmod]
  obtain rfl | rfl | rfl | rfl := place_cases hj <;> rfl

/-- The last round of decryption and STORESTATE (R173). -/
theorem uopDec_last {j : Nat} (hj : j < 4) :
    uopDec nr (4 * (nr - 1) + 2 + j) = [Instr.invshiftrows, .invsubbytes, .addroundkey 0#4, .storestate][j]? := by
  have hpos := one_lt_of_legalRounds hl
  rw [uopDec, hl, if_neg nofun, if_neg (by omega), if_neg (by omega), if_neg (by omega)]
  obtain rfl | rfl | rfl | rfl := place_cases hj <;> simp (disch := omega) only [if_pos, if_neg] <;> rfl

/-- The encryption sequence is CIPHER written out (R91, R172). -/
theorem map_uopEnc : (List.range (4 * nr + 2)).map (uopEnc nr) = (cipherUops nr).map some := by
  refine map_range_of_rounds (Nat.zero_lt_of_lt (one_lt_of_legalRounds hl)) ?_
    (fun m hm => map_roundPositions fun j hj => uopEnc_round hl hm hj)
    (map_roundPositions fun j hj => uopEnc_last hl hj)
  simp [uopEnc, hl]

/-- The decryption sequence is INVCIPHER written out (R91, R173). -/
theorem map_uopDec : (List.range (4 * nr + 2)).map (uopDec nr) = (invCipherUops nr).map some := by
  refine map_range_of_rounds (Nat.zero_lt_of_lt (one_lt_of_legalRounds hl)) ?_
    (fun m hm => map_roundPositions fun j hj => uopDec_round hl hm hj)
    (map_roundPositions fun j hj => uopDec_last hl hj)
  simp [uopDec, hl]

/-- After STORESTATE there is no uop (R172, R173). -/
theorem no_uop_after_storestate : uopEnc nr (4 * nr + 2) = none ∧ uopDec nr (4 * nr + 2) = none := by
  constructor
  · simp (disch := omega) only [uopEnc, hl, if_neg]; rfl
  · simp (disch := omega) only [uopDec, hl, if_neg]; rfl

end

theorem legalRounds_rounds (k : KeySize) : legalRounds k.rounds = true := by
  cases k <;> rfl

/-- Settles O34, for every number of rounds that is legal: first two, main rounds, last four. -/
theorem microProgramsAreExpansions : Obligations.MicroProgramsAreExpansions := by
  unfold Obligations.MicroProgramsAreExpansions
  intro k
  have hl := legalRounds_rounds k
  exact ⟨map_uopEnc hl, map_uopDec hl, no_uop_after_storestate hl⟩

/-! ### An instruction placed by `withFetchWord` (log 13, log 14) -/

/-- A command word placed on the port of an idle core is presented (R81). -/
theorem action_place_cmd {w : Nat} (word : BitVec (1 + w)) (s : State) :
    action (place (.cmd w word) s) = .run (.cmd w word) :=
  (action_of_idle rfl rfl rfl rfl).trans (congrArg Action.run (cmdWord_fields word))

/-- An operand placed on its unit's bus is presented (R84). -/
theorem action_place_fn (bus : FnBus) (s : State) : action (place (.fn bus) s) = .run (.fn bus) :=
  action_of_fnIn rfl rfl

/-- The position chosen for ADDROUNDKEY `round` in the AES-256 encryption sequence has it (R172). -/
theorem uopEnc_roundKeyUpc {r : Nat} (h : r ≤ 14) :
    roundKeyUpc r < 64 ∧ uopEnc 14 (roundKeyUpc r) = some (.addroundkey (BitVec.ofNat 4 r)) := by
  unfold roundKeyUpc
  split
  · next h14 => subst h14; exact ⟨by decide, rfl⟩
  · next h14 =>
    cases r with
    | zero => exact ⟨by decide, rfl⟩
    | succ m => exact ⟨by omega, uopEnc_round (nr := 14) (j := 3) rfl (by omega) (by decide)⟩

section

variable {s : State} (hr : s.pins.rst = false) (hf : s.fnIn = none)

include hr hf

/-- The sequencer placed at a position of a micro-program presents the uop there. -/
theorem action_placeRun {op : Op} {upc : Nat} {i : Instr} (hi : runUop (placeRun op upc s) = some i) :
    action (placeRun op upc s) = .run (encode s.ksbW i) :=
  action_of_run (s := placeRun op upc s) hr hf rfl hi

/-- The sequencer placed at a word of the schedule presents the KEXP uop of that word. -/
theorem action_placeKexp {k : KeySize} {idx : BitVec 6} {i : Instr} (hi : kexpUop (placeKexp k idx s) = i) :
    action (placeKexp k idx s) = .run (encode s.ksbW i) :=
  hi ▸ action_of_kexp (s := placeKexp k idx s) hr hf rfl

/-- A uop with a meaning is presented where it is placed. -/
theorem action_placeUop {i : Instr} {w : Nat} (hu : ∃ word, encode w i = .uop word) (hwf : i.wellFormed w = true) :
    action (placeUop i s) = .run (encode s.ksbW i) := by
  obtain ⟨word, hword⟩ := hu
  cases i with
  | loadstate | storestate | subbytes | shiftrows | mixcolumns | invshiftrows | invsubbytes | invmixcolumns =>
    exact action_placeRun hr hf rfl
  | addroundkey round =>
    obtain ⟨hlt, hat⟩ := uopEnc_roundKeyUpc (of_decide_eq_true hwf)
    refine action_placeRun hr hf ?_
    simpa [runUop, placeRun, Nat.mod_eq_of_lt hlt] using hat
  | kexpCopy i =>
    have hi : i.toNat ≤ 7 := of_decide_eq_true hwf
    exact action_placeKexp hr hf (kexpUop_of_lt (s := placeKexp .aes256 i s) (Nat.lt_succ_of_le hi))
  | kexpWord i =>
    have hi : 4 ≤ i.toNat ∧ i.toNat ≤ 59 := of_decide_eq_true hwf
    refine action_placeKexp hr hf (kexpUop_of_le ?_)
    by_cases h8 : i.toNat < 8
    · simpa [placeKexp, h8, KeySize.words] using hi.1
    · simpa [placeKexp, h8, KeySize.words] using Nat.le_of_not_lt h8
  | _ => cases hword

end

/-- A uop word with a meaning is presented where it is placed (R83). -/
theorem action_place_uop {word : BitVec 10} {i : Instr} (h : decodeUop word = .ok i) (s : State) :
    action (place (.uop word) s) = .run (.uop word) := by
  obtain ⟨hword, hwf⟩ := encode_of_decodeUop h s.ksbW
  have hplace : place (.uop word) s = placeUop i (undisturbed s) := by simp only [place, h]
  rw [hplace, action_placeUop (s := undisturbed s) rfl rfl ⟨word, hword⟩ hwf]
  exact congrArg Action.run hword

/-- A word with a meaning is presented where it is placed. -/
theorem action_place {e : Encoded} {i : Instr} (h : decode e = .ok i) (s : State) : action (place e s) = .run e := by
  cases e with
  | cmd w word => exact action_place_cmd word s
  | uop word => exact action_place_uop h s
  | fn bus => exact action_place_fn bus s

/-- The opcode table's command words are those of the default KSB_W (R86; log 11). -/
theorem hasWidth_of_tableWord {nbits w : Nat} {e : Encoded} (h : tableWord nbits w = some e) :
    e.hasWidth Config.ksbW = true := by
  unfold tableWord at h
  repeat' split at h
  all_goals cases h
  all_goals rfl

/-- What the opcode table's numbering names is the word of an encoded instruction. -/
theorem decodeTableWord_eq_some {nbits w : Nat} {i : Instr} (h : decodeTableWord nbits w = some i) :
    ∃ e, tableWord nbits w = some e ∧ decode e = .ok i := by
  unfold decodeTableWord at h
  split at h
  · cases h
  · next e he =>
    split at h
    · next j hd => exact ⟨e, he, hd.trans (congrArg Except.ok (Option.some.inj h))⟩
    · cases h

/-- Settles O7: the table's word is presented where it is placed, by its format, and it is the encoding of what the
decoder reads in it. -/
theorem placedWordIsPresented : Obligations.PlacedWordIsPresented := by
  unfold Obligations.PlacedWordIsPresented
  intro s nbits w i h
  obtain ⟨e, he, hd⟩ := decodeTableWord_eq_some h
  have hplace : s.withFetchWord nbits w = place e s := by simp only [State.withFetchWord, placeTableWord, he]
  rw [hplace, action_place hd, (encodeOfDecode _ e i (hasWidth_of_tableWord he) hd).1]

end Sys2Proof.Machine
end

section
/-!
SUPPORT. What the encoding and the instructions' meanings refuse (spec/30_encoding.md R83, R88; spec/42_key_expansion.md
R132 to R136), and ACCEPT written out (spec/45_command_api.md R201, R202, R206, R207).
-/
namespace Sys2Proof.Machine

/-! ### Sample words and reserved words -/

/-- Settles O1: each word reads as its row by computation. -/
theorem decodeSampleWords : Obligations.DecodeSampleWords := by
  unfold Obligations.DecodeSampleWords
  exact ⟨rfl, rfl, rfl, rfl, rfl, rfl, rfl, rfl, rfl, rfl, rfl, rfl, rfl, rfl⟩

/-- Settles O4: by the `usel` of a uop word, by the range of RCON's index, and because a command word always names a
row. -/
theorem reservedWordsRefused : Obligations.ReservedWordsRefused := by
  unfold Obligations.ReservedWordsRefused
  refine ⟨fun usel arg h => ?_, fun j hj => if_neg (by omega), fun w word => ⟨_, rfl⟩⟩
  have hfields : decode (.uop (usel ++ arg)) = decodeUopFields usel arg := decode_uopWord
  rw [hfields]
  unfold decodeUopFields
  split
  case h_3 | h_10 | h_11 => exact ⟨_, if_neg (by simp at h; omega)⟩
  case h_12 => exact ⟨_, rfl⟩
  all_goals
    have harg : arg ≠ 0#6 := by simpa using h
    exact ⟨_, if_neg harg⟩

/-! ### Arguments that NK and NR do not allow -/

/-- KEXP.COPY at an index that is no word of the key is refused (R88, R135). -/
theorem execKexpCopy_refused {s : State} {i : BitVec 6}
    (h : ∀ k, keySizeOf s.nk s.nr = some k → k.words ≤ i.toNat) :
    execKexpCopy i s = .refused .argumentOutOfRange := by
  unfold execKexpCopy
  split
  · rfl
  · next k hk => exact dif_neg (Nat.not_lt.mpr (h k hk))

/-- KEXP.WORD at an index outside the words it computes is refused (R88, R136). -/
theorem execKexpWord_refused {s : State} {i : BitVec 6}
    (h : ∀ k, keySizeOf s.nk s.nr = some k → i.toNat < k.words ∨ k.scheduleWords ≤ i.toNat) :
    execKexpWord i s = .refused .argumentOutOfRange := by
  unfold execKexpWord
  split
  · rfl
  · next k hk =>
    have hout := h k hk
    exact dif_neg (by omega)

/-- ADDROUNDKEY of a round above NR, or above the last that W holds, is refused (R88, R156). -/
theorem execAddroundkey_refused {s : State} {round : BitVec 4} (h : s.nr.toNat < round.toNat ∨ 14 < round.toNat) :
    execAddroundkey round s = .refused .argumentOutOfRange :=
  dif_neg (by omega)

/-- Settles O20, by the three uops that take an argument. -/
theorem argumentOutOfRangeRefused : Obligations.ArgumentOutOfRangeRefused := by
  unfold Obligations.ArgumentOutOfRangeRefused
  exact ⟨fun _ _ => execKexpCopy_refused, fun _ _ => execKexpWord_refused, fun _ _ => execAddroundkey_refused⟩

/-! ### ACCEPT written out -/

/-- ACCEPT of a recognised key size in IDLE, field by field (R201). -/
theorem accept_eq_acceptedAs {s : State} (hp : s.phase = .idle) (op : Op) {ksb : Ksb} {k : KeySize}
    (hk : decodeKsb ksb = some k) :
    accept op ksb s = acceptedAs op ksb (BitVec.ofNat 4 k.words) (BitVec.ofNat 4 k.rounds) s :=
  accept_valid hp op hk

/-- ACCEPT of any other key size in IDLE, field by field (R202). -/
theorem accept_eq_rejectedAs {s : State} (hp : s.phase = .idle) (op : Op) {ksb : Ksb} (hk : decodeKsb ksb = none) :
    accept op ksb s = rejectedAs op ksb s :=
  accept_invalid hp op hk

/-- The generic command of an operation runs as its ACCEPT (R206, R207). -/
theorem exec_generic (op : Op) (ksb : Ksb) (s : State) :
    exec (match op with | .encrypt => .encrypt ksb | .decrypt => .decrypt ksb) s = .next (accept op ksb s) := by
  cases op <;> rfl

/-- Settles O39, by the four answers decode_ksb has. -/
theorem acceptGenericForms : Obligations.AcceptGenericForms := by
  unfold Obligations.AcceptGenericForms
  intro s ksb hp op
  refine (exec_generic op ksb s).trans (congrArg Host.Outcome.next ?_)
  split
  · next h => exact accept_eq_acceptedAs (k := .aes128) hp op ((decodeKsb_eq_some ksb _).mpr h)
  split
  · next h => exact accept_eq_acceptedAs (k := .aes192) hp op ((decodeKsb_eq_some ksb _).mpr h)
  split
  · next h => exact accept_eq_acceptedAs (k := .aes256) hp op ((decodeKsb_eq_some ksb _).mpr h)
  · next h128 h192 h256 => exact accept_eq_rejectedAs hp op ((decodeKsb_eq_none ksb).mpr ⟨h128, h192, h256⟩)

end Sys2Proof.Machine
end

section
/-!
SUPPORT. XTIME and the product of R122 as additive maps, addition being XOR: such a map is known from its values on
the powers of x, which gives the laws of the product that make an inverse unique (spec/41_gf_arithmetic.md R120, R122,
R123).
-/
namespace Sys2Proof.Machine

/-! ### Additive maps on bytes -/

/-- The map takes a sum to the sum of its values. -/
def XorAdditive (f : Byte → Byte) : Prop := ∀ a b, f (a ^^^ b) = f a ^^^ f b

theorem xorAdditive_id : XorAdditive fun a => a := fun _ _ => rfl

theorem XorAdditive.comp {f g : Byte → Byte} (hf : XorAdditive f) (hg : XorAdditive g) :
    XorAdditive fun a => f (g a) :=
  fun a b => (congrArg f (hg a b)).trans (hf (g a) (g b))

theorem XorAdditive.map_zero {f : Byte → Byte} (hf : XorAdditive f) : f 0x00#8 = 0x00#8 := by
  simpa using hf 0x00#8 0x00#8

/-- What holds of 0, of the powers of x below the eighth, and of the sum of any two bytes of which it holds, holds of
every byte. -/
theorem byte_xor_induction {P : Byte → Prop} (zero : P 0x00#8) (pow : ∀ k < 8, P (BitVec.twoPow 8 k))
    (xor : ∀ a b, P a → P b → P (a ^^^ b)) (a : Byte) : P a := by
  suffices h : ∀ n ≤ 8, ∀ a : Byte, (∀ i, n ≤ i → a.getLsbD i = false) → P a from
    h 8 (Nat.le_refl 8) a fun i hi => BitVec.getLsbD_of_ge a i hi
  intro n
  induction n with
  | zero =>
    intro _ a ha
    obtain rfl : a = 0x00#8 := BitVec.eq_of_getLsbD_eq fun i _ => by simpa using ha i (Nat.zero_le i)
    exact zero
  | succ n ih =>
    intro hn a ha
    cases hbit : a.getLsbD n with
    | false =>
      refine ih (by omega) a fun i hi => ?_
      obtain rfl | hlt := Nat.eq_or_lt_of_le hi
      · exact hbit
      · exact ha i hlt
    | true =>
      have hrest : P (a ^^^ BitVec.twoPow 8 n) := by
        refine ih (by omega) _ fun i hi => ?_
        obtain rfl | hlt := Nat.eq_or_lt_of_le hi
        · simp [hbit, Nat.lt_of_succ_le hn]
        · simp [ha i hlt, BitVec.getLsbD_twoPow, Nat.ne_of_lt hlt]
      simpa [BitVec.xor_assoc] using xor _ _ hrest (pow n hn)

/-- Additive maps that agree on the powers of x are equal. -/
theorem XorAdditive.eq_of_twoPow {f g : Byte → Byte} (hf : XorAdditive f) (hg : XorAdditive g)
    (h : ∀ k < 8, f (BitVec.twoPow 8 k) = g (BitVec.twoPow 8 k)) (a : Byte) : f a = g a := by
  induction a using byte_xor_induction with
  | zero => rw [hf.map_zero, hg.map_zero]
  | pow k hk => exact h k hk
  | xor a b ha hb => rw [hf, hg, ha, hb]

/-! ### XTIME and the product are additive -/

section

variable {n : Nat}

/-- A term added under a condition. -/
theorem ite_xor_term (p : Prop) [Decidable p] (r t : BitVec n) :
    (if p then r ^^^ t else r) = r ^^^ (if p then t else 0#n) := by
  split <;> simp

/-- A term that the sum of two bits selects is the sum of what each selects. -/
theorem ite_xor_bits (p q : Bool) (t : BitVec n) :
    (if (p ^^ q) then t else 0#n) = (if p then t else 0#n) ^^^ (if q then t else 0#n) := by
  cases p <;> cases q <;> simp

end

theorem xtime_xor : XorAdditive xtime := fun a b => by
  simp only [xtime, BitVec.shiftLeft_xor_distrib, BitVec.getLsbD_xor, ite_xor_bits]
  ac_rfl

/-- One more bit of the multiplier (R122, first loop). -/
theorem clmul_succ (a b : Byte) (n : Nat) :
    clmul a b (n + 1) = clmul a b n ^^^ (if b.getLsbD n then a.setWidth 15 <<< n else 0#15) :=
  ite_xor_term ..

/-- One more degree to clear (R122, second loop). -/
theorem polyReduce_succ (n : Nat) (r : BitVec 15) :
    polyReduce (n + 1) r = polyReduce n (r ^^^ (if r.getLsbD (8 + n) then 0x11b#15 <<< n else 0#15)) :=
  congrArg (polyReduce n) (ite_xor_term ..)

theorem clmul_xor_left (a b c : Byte) (n : Nat) : clmul (a ^^^ b) c n = clmul a c n ^^^ clmul b c n := by
  induction n with
  | zero => exact BitVec.xor_self.symm
  | succ n ih =>
    rw [clmul_succ, clmul_succ, clmul_succ, ih]
    split
    · rw [BitVec.setWidth_xor, BitVec.shiftLeft_xor_distrib]; ac_rfl
    · simp

theorem clmul_xor_right (a b c : Byte) (n : Nat) : clmul a (b ^^^ c) n = clmul a b n ^^^ clmul a c n := by
  induction n with
  | zero => exact BitVec.xor_self.symm
  | succ n ih =>
    simp only [clmul_succ, ih, BitVec.getLsbD_xor, ite_xor_bits]
    ac_rfl

theorem polyReduce_xor (n : Nat) (r q : BitVec 15) : polyReduce n (r ^^^ q) = polyReduce n r ^^^ polyReduce n q := by
  induction n generalizing r q with
  | zero => rfl
  | succ n ih =>
    simp only [polyReduce_succ, BitVec.getLsbD_xor, ite_xor_bits, ih]
    ac_rfl

theorem polyMul_xor_left (c : Byte) : XorAdditive (polyMul · c) := fun a b => by
  simp only [polyMul, clmul_xor_left, polyReduce_xor, BitVec.setWidth_xor]

theorem polyMul_xor_right (a : Byte) : XorAdditive (polyMul a) := fun b c => by
  simp only [polyMul, clmul_xor_right, polyReduce_xor, BitVec.setWidth_xor]

/-! ### The laws of the product -/

@[simp] theorem polyMul_zero (a : Byte) : polyMul a 0x00#8 = 0x00#8 := (polyMul_xor_right a).map_zero

@[simp] theorem zero_polyMul (a : Byte) : polyMul 0x00#8 a = 0x00#8 := (polyMul_xor_left a).map_zero

@[simp] theorem polyMul_one (a : Byte) : polyMul a 0x01#8 = a :=
  (polyMul_xor_left 0x01#8).eq_of_twoPow xorAdditive_id (by decide) a

@[simp] theorem one_polyMul (a : Byte) : polyMul 0x01#8 a = a :=
  (polyMul_xor_right 0x01#8).eq_of_twoPow xorAdditive_id (by decide) a

/-- The product commutes with XTIME, the product with x (R120), as it does on the powers of x. -/
theorem polyMul_xtime (a b : Byte) : polyMul a (xtime b) = xtime (polyMul a b) := by
  refine (polyMul_xor_left (xtime b)).eq_of_twoPow (xtime_xor.comp (polyMul_xor_left b)) (fun i hi => ?_) a
  refine ((polyMul_xor_right _).comp xtime_xor).eq_of_twoPow (xtime_xor.comp (polyMul_xor_right _)) ?_ b
  revert i
  decide

theorem xtime_twoPow : ∀ k < 7, xtime (BitVec.twoPow 8 k) = BitVec.twoPow 8 (k + 1) := by
  decide

/-- Both sides are additive in the last factor, equal at 1, and commute with XTIME. -/
theorem polyMul_assoc (a b c : Byte) : polyMul (polyMul a b) c = polyMul a (polyMul b c) := by
  refine (polyMul_xor_right _).eq_of_twoPow ((polyMul_xor_right a).comp (polyMul_xor_right b)) (fun k hk => ?_) c
  induction k with
  | zero => simp only [BitVec.twoPow_zero, polyMul_one]
  | succ k ih =>
    simp only [← xtime_twoPow k (Nat.lt_of_succ_lt_succ hk), polyMul_xtime, ih (Nat.lt_of_succ_lt hk)]

/-- A left inverse is the only right inverse (R123). -/
theorem eq_of_polyMul_eq_one {a x y : Byte} (hy : polyMul y a = 0x01#8) (hx : polyMul a x = 0x01#8) : x = y :=
  calc x = polyMul (polyMul y a) x := by rw [hy, one_polyMul]
    _ = polyMul y (polyMul a x) := polyMul_assoc y a x
    _ = y := by rw [hx, polyMul_one]

end Sys2Proof.Machine
end

section
/-!
SUPPORT. The S-box and its inverse: the laws of the two tables, each checked at its 256 entries, and the construction of
the forward one (spec/40_sbox.md R110 to R114).
-/
namespace Sys2Proof.Machine

/-! ### The two units -/

/-- SBOX drives the table entry on its result bus and changes nothing else (R110). -/
theorem exec_sbox (a : Byte) (s : State) : exec (.sbox a) s = .next { s with fnOut := .byte (sbox a) } := rfl

/-- INVSBOX drives the table entry on its result bus and changes nothing else (R111). -/
theorem exec_invsbox (a : Byte) (s : State) : exec (.invsbox a) s = .next { s with fnOut := .byte (invSbox a) } := rfl

/-! ### The laws of the tables (R114) -/

@[simp] theorem invSbox_sbox (a : Byte) : invSbox (sbox a) = a := by
  revert a; decide

@[simp] theorem sbox_invSbox (a : Byte) : sbox (invSbox a) = a := by
  revert a; decide

/-- No fixed point and no opposite fixed point. -/
theorem sbox_ne (a : Byte) : sbox a ≠ a ∧ sbox a ≠ a ^^^ 0xff#8 := by
  revert a; decide

theorem sbox_zero : sbox 0x00#8 = 0x63#8 := rfl

theorem sbox_injective : Function.Injective sbox := Function.LeftInverse.injective invSbox_sbox

/-- Settles O10: the inverse table gives each byte its one preimage. -/
theorem sboxLaws : Obligations.SboxLaws := by
  unfold Obligations.SboxLaws
  refine ⟨fun b => ⟨invSbox b, sbox_invSbox b, fun a' ha' => ?_⟩, fun a => ⟨invSbox_sbox a, sbox_invSbox a⟩, sbox_ne,
    sbox_zero⟩
  exact sbox_injective (ha'.trans (sbox_invSbox b).symm)

/-- Settles O8: the unit's meaning, the law of fixed points, and the three entries named. -/
theorem sboxResult : Obligations.SboxResult := by
  unfold Obligations.SboxResult
  exact ⟨exec_sbox, sbox_ne, sbox_zero, rfl, rfl⟩

/-- Settles O9: the unit's meaning, the inverse law both ways, and the four entries named. -/
theorem invsboxResult : Obligations.InvsboxResult := by
  unfold Obligations.InvsboxResult
  exact ⟨exec_invsbox, fun a => ⟨invSbox_sbox a, sbox_invSbox a⟩, rfl, rfl, rfl, rfl⟩

/-! ### The construction of the forward table (R112) -/

/-- The inverse of the affine map of R112. -/
def affineInv (y : Byte) : Byte := y.rotateRight 2 ^^^ y.rotateRight 5 ^^^ y.rotateRight 7 ^^^ 0x05#8

theorem affine_affineInv (y : Byte) : affine (affineInv y) = y := by
  revert y; decide

/-- The affine map taken off the entry of a nonzero byte leaves an inverse of the byte. -/
theorem affineInv_sbox_polyMul (a : Byte) : a ≠ 0x00#8 → polyMul (affineInv (sbox a)) a = 0x01#8 := by
  revert a; decide

/-- SBOX(a) = Aff(Inv(a)), the inverse given by its product with a nonzero `a` (R112). -/
theorem sbox_eq_affine {a x : Byte} (hzero : a = 0x00#8 → x = 0x00#8) (hinv : a ≠ 0x00#8 → polyMul a x = 0x01#8) :
    sbox a = affine x := by
  by_cases ha : a = 0x00#8
  · rw [hzero ha, ha]; rfl
  · rw [eq_of_polyMul_eq_one (affineInv_sbox_polyMul a ha) (hinv ha), affine_affineInv]

/-- Settles O11: an inverse is unique, and the one computed from the table entry has that entry as its affine image. -/
theorem sboxIsAffineOfInverse : Obligations.SboxIsAffineOfInverse := by
  unfold Obligations.SboxIsAffineOfInverse
  intro a x s hzero hinv
  rw [exec_sbox, sbox_eq_affine hzero hinv]

end Sys2Proof.Machine
end

section
/-!
SUPPORT. XTIME and GMUL against the product of R122, and the laws of the field (spec/41_gf_arithmetic.md R120 to R123).
-/
namespace Sys2Proof.Machine

/-! ### XTIME (R120) -/

/-- XTIME drives the doubled byte on its result bus and changes nothing else. -/
theorem exec_xtime (b : Byte) (s : State) : exec (.xtime b) s = .next { s with fnOut := .byte (xtime b) } := rfl

/-- XTIME is the product with the byte 0x02, which it makes of 0x01. -/
theorem polyMul_two (b : Byte) : polyMul b 0x02#8 = xtime b :=
  calc polyMul b (xtime 0x01#8) = xtime (polyMul b 0x01#8) := polyMul_xtime b 0x01#8
    _ = xtime b := congrArg xtime (polyMul_one b)

/-- Shifting on 9 bits and masking the low 8 drops the bit shifted out. -/
theorem setWidth_shiftLeft_and_mask (b : Byte) : ((b.setWidth 9 <<< 1) &&& 0xff#9).setWidth 8 = b <<< 1 := by
  have hmask : (0xff#9).setWidth 8 = BitVec.allOnes 8 := rfl
  rw [BitVec.setWidth_and, hmask, BitVec.and_allOnes, BitVec.setWidth_shiftLeft_of_le (by decide),
    BitVec.setWidth_setWidth_of_le b (by decide), BitVec.setWidth_eq]

/-- Each bit is the one below it, plus the high bit where the polynomial 0x1b has a term. -/
theorem getLsbD_xtime (b : Byte) (i : Nat) :
    (xtime b).getLsbD i = ((b <<< 1).getLsbD i ^^ (b.getLsbD 7 && (0x1b#8).getLsbD i)) := by
  rw [xtime, BitVec.getLsbD_xor]
  cases b.getLsbD 7 <;> simp

/-- The product with 0x8d, the inverse of 0x02, takes a doubling back. -/
theorem leftInverse_xtime : Function.LeftInverse (polyMul · 0x8d#8) xtime := fun b =>
  calc polyMul (xtime b) 0x8d#8 = polyMul (polyMul b 0x02#8) 0x8d#8 := by rw [polyMul_two]
    _ = polyMul b (polyMul 0x02#8 0x8d#8) := polyMul_assoc b 0x02#8 0x8d#8
    _ = b := polyMul_one b

/-- Settles O12: the formula on 9 bits, the product with 0x02, each bit, and the inverse of the doubling. -/
theorem xtimeResult : Obligations.XtimeResult := by
  unfold Obligations.XtimeResult
  refine ⟨fun b s => ⟨xtime b, exec_xtime b s, ?_, (polyMul_two b).symm, ?_⟩,
    fun _ _ h => leftInverse_xtime.injective h, rfl, rfl, rfl, rfl, rfl⟩
  · rw [setWidth_shiftLeft_and_mask, xtime]
  · simp only [getLsbD_xtime]
    simp

/-! ### GMUL is the product (R121, R122) -/

/-- GMUL drives its product on its result bus and changes nothing else. -/
theorem exec_gmul (a b : Byte) (s : State) : exec (.gmul a b) s = .next { s with fnOut := .byte (gmul a b) } := rfl

/-- The loop adds the doublings of `a` selected by the bits of `b` from `k` up. -/
theorem gmulLoop_eq_foldl (a b : Byte) (n k : Nat) (p : Byte) :
    gmulLoop b n k p (times xtime k a) =
      (List.range' k n).foldl (fun p k => if b.getLsbD k then p ^^^ times xtime k a else p) p := by
  induction n generalizing k p with
  | zero => rfl
  | succ n ih => exact ih (k + 1) _

theorem gmul_eq_foldl (a b : Byte) :
    gmul a b = (List.range 8).foldl (fun p k => if b.getLsbD k then p ^^^ times xtime k a else p) 0x00#8 :=
  gmulLoop_eq_foldl a b 8 0 0x00#8

/-- The loop commutes with a product on the left, which is additive and commutes with XTIME. -/
theorem gmulLoop_polyMul (a b : Byte) (n k : Nat) (p c : Byte) :
    gmulLoop b n k (polyMul a p) (polyMul a c) = polyMul a (gmulLoop b n k p c) := by
  induction n generalizing k p c with
  | zero => rfl
  | succ n ih =>
    rw [gmulLoop, gmulLoop, ← ih, polyMul_xtime, apply_ite (polyMul a), polyMul_xor_right]

/-- The loop on 1 adds up the powers of x that make `b`. -/
theorem one_gmul (b : Byte) : gmul 0x01#8 b = b := by
  revert b; decide

theorem gmul_eq_polyMul (a b : Byte) : gmul a b = polyMul a b :=
  calc gmul a b = gmulLoop b 8 0 (polyMul a 0x00#8) (polyMul a 0x01#8) := by rw [polyMul_zero, polyMul_one, gmul]
    _ = polyMul a (gmul 0x01#8 b) := gmulLoop_polyMul a b 8 0 0x00#8 0x01#8
    _ = polyMul a b := by rw [one_gmul]

/-- Doubling and adding once, as 0x03 is 0x02 plus 0x01. -/
theorem polyMul_three (a : Byte) : polyMul a 0x03#8 = xtime a ^^^ a :=
  calc polyMul a (0x02#8 ^^^ 0x01#8) = polyMul a 0x02#8 ^^^ polyMul a 0x01#8 := polyMul_xor_right a 0x02#8 0x01#8
    _ = xtime a ^^^ a := by rw [polyMul_two, polyMul_one]

/-- Settles O13: the loop is the product, and the sum of the doublings it has added. -/
theorem gmulResult : Obligations.GmulResult := by
  unfold Obligations.GmulResult
  refine ⟨fun a b s => ?_, gmul_eq_foldl, fun a => ?_, rfl, rfl, rfl⟩
  · rw [exec_gmul, gmul_eq_polyMul]
  · simp only [gmul_eq_polyMul]
    exact ⟨polyMul_zero a, zero_polyMul a, polyMul_one a, polyMul_two a, polyMul_three a⟩

/-! ### The laws of the field (R123) -/

/-- Both sides are additive in each factor, and agree on the powers of x. -/
theorem polyMul_comm (a b : Byte) : polyMul a b = polyMul b a := by
  refine (polyMul_xor_left b).eq_of_twoPow (polyMul_xor_right b) (fun i hi => ?_) a
  refine (polyMul_xor_right _).eq_of_twoPow (polyMul_xor_left _) ?_ b
  revert i
  decide

/-- The inverse that the S-box is made of (R112), and no other. -/
theorem exists_unique_inverse {a : Byte} (ha : a ≠ 0x00#8) :
    ∃ b, polyMul a b = 0x01#8 ∧ ∀ b', polyMul a b' = 0x01#8 → b' = b := by
  have hinv : polyMul (affineInv (sbox a)) a = 0x01#8 := affineInv_sbox_polyMul a ha
  exact ⟨affineInv (sbox a), (polyMul_comm _ _).trans hinv, fun _ => eq_of_polyMul_eq_one hinv⟩

theorem times_add {α : Type} (f : α → α) (m n : Nat) (a : α) : times f (m + n) a = times f m (times f n a) := by
  induction m with
  | zero => rw [Nat.zero_add, times]
  | succ m ih => rw [Nat.succ_add, times, times, ih]

/-- The 51st power of x, in three strides of 17. -/
theorem times_xtime_fiftyOne : times xtime 51 0x01#8 = 0x01#8 :=
  have h₁ : times xtime 17 0x01#8 = 0xbc#8 := rfl
  have h₂ : times xtime 17 0xbc#8 = 0xbd#8 := rfl
  have h₃ : times xtime 17 0xbd#8 = 0x01#8 := rfl
  calc times xtime (17 + (17 + 17)) 0x01#8
    _ = times xtime 17 (times xtime 17 (times xtime 17 0x01#8)) := by rw [times_add, times_add]
    _ = 0x01#8 := by rw [h₁, h₂, h₃]

/-- No smaller positive power of x is 1. -/
theorem times_xtime_ne_one : ∀ n < 51, 0 < n → times xtime n 0x01#8 ≠ 0x01#8 := by
  decide

/-- Entry (r, c) of the product of the circulant matrices with the first rows `row` and `row'`. -/
def circulantProduct (row row' : Vector Byte 4) (r c : Nat) : Byte :=
  gmul (circulant row r 0) (circulant row' 0 c) ^^^ gmul (circulant row r 1) (circulant row' 1 c) ^^^
    gmul (circulant row r 2) (circulant row' 2 c) ^^^ gmul (circulant row r 3) (circulant row' 3 c)

/-- The product of the MixColumns and InvMixColumns matrices, in both orders, is the identity at its 16 entries. -/
theorem mixColumns_matrices_inverse : ∀ r < 4, ∀ c < 4,
    let m := #v[0x02#8, 0x03#8, 0x01#8, 0x01#8]
    let n := #v[0x0e#8, 0x0b#8, 0x0d#8, 0x09#8]
    let one : Byte := if r = c then 0x01#8 else 0x00#8
    circulantProduct m n r c = one ∧ circulantProduct n m r c = one := by
  decide

/-- Settles O14, GMUL being the product: its laws, the order of x, and the two matrices. -/
theorem fieldLaws : Obligations.FieldLaws := by
  unfold Obligations.FieldLaws
  refine ⟨?comm, ?assoc, ?distrib, ?units, ?inverse,
    ⟨times_xtime_fiftyOne, fun n hpos hlt => times_xtime_ne_one n hlt hpos, rfl⟩,
    fun r c hr hc => mixColumns_matrices_inverse r hr c hc⟩
  all_goals simp only [gmul_eq_polyMul]
  case comm => exact polyMul_comm
  case assoc => exact fun a b c => (polyMul_assoc a b c).symm
  case distrib => exact polyMul_xor_right
  case units => exact fun a => ⟨polyMul_one a, polyMul_zero a⟩
  case inverse => exact fun _ => exists_unique_inverse

end Sys2Proof.Machine
end

section
/-!
SUPPORT. The key-expansion units and the transform T against the formulas of the spec, then the words that KEXP.COPY,
KEXP.WORD and KeyExpand compute (spec/42_key_expansion.md R130 to R137).
-/
namespace Sys2Proof.Machine

/-! ### The units (R130 to R132) -/

/-- ROTWORD takes each byte from the next place, cyclically (R130). -/
@[simp] theorem getElem_rotWord (w : Word) (j : Nat) (h : j < 4) : (rotWord w)[j] = w[(j + 1) % 4] := by
  obtain rfl | rfl | rfl | rfl := place_cases h <;> rfl

/-- ROTWORD drives the rotated word on its result bus and changes nothing else. -/
theorem exec_rotword (a b c d : Byte) (s : State) :
    exec (.rotword a b c d) s = .next { s with fnOut := .word #v[b, c, d, a] } := rfl

/-- Settles O15: a place moved on by one four times, modulo 4, is itself. -/
theorem rotwordResult : Obligations.RotwordResult := by
  unfold Obligations.RotwordResult
  refine ⟨exec_rotword, fun w => ?_, fun _ => rfl⟩
  apply Vector.ext
  intro j hj
  have hplace : ((((j + 1) % 4 + 1) % 4 + 1) % 4 + 1) % 4 = j := by omega
  simp only [getElem_rotWord, hplace]

/-- SUBWORD drives the S-box of each byte on its result bus and changes nothing else (R131). -/
theorem exec_subword (a b c d : Byte) (s : State) :
    exec (.subword a b c d) s = .next { s with fnOut := .word #v[sbox a, sbox b, sbox c, sbox d] } := rfl

/-- Settles O16: the unit's meaning, and the two words named, read from the table. -/
theorem subwordResult : Obligations.SubwordResult := by
  unfold Obligations.SubwordResult
  exact ⟨exec_subword, rfl, rfl⟩

/-- The ten entries of the ROM, checked one by one. -/
theorem rconTable_eq_times : ∀ (n : Nat) (h : n < 10), rconTable[n] = times xtime n 0x01#8 := by
  decide

/-- The round constants are the powers of x (R132). -/
theorem rcon_eq_times (j : Nat) (h : 1 ≤ j ∧ j ≤ 10) : rcon j h = times xtime (j - 1) 0x01#8 := by
  obtain ⟨n, rfl⟩ : ∃ n, j = n + 1 := ⟨j - 1, by omega⟩
  exact rconTable_eq_times n (by omega)

/-- Settles O17, by whether the index is one of RCON's ten. -/
theorem rconResult : Obligations.RconResult := by
  unfold Obligations.RconResult
  refine ⟨fun j s hlow hhigh => ?_, fun j s h => dif_neg (by omega)⟩
  rw [← rcon_eq_times j.toNat ⟨hlow, hhigh⟩]
  exact dif_pos ⟨hlow, hhigh⟩

/-! ### The transform T (R134) -/

/-- Each byte of T(i, Nk, t0) is the spec's formula. -/
@[simp] theorem getElem_transform (k : KeySize) (i : Nat) (h : k.words ≤ i ∧ i < k.scheduleWords) (t0 : Word)
    (j : Nat) (hj : j < 4) : (transform k i h t0)[j] = transformByte k.words i t0 ⟨j, hj⟩ := by
  unfold transform transformByte
  split
  · obtain rfl | rfl | rfl | rfl := place_cases hj <;> simp [rcon_eq_times]
  · split
    · exact getElem_subWord t0 j hj
    · rfl

/-- Each byte of the word that the recurrence makes of W[i-Nk] and W[i-1] (R136). -/
theorem getElem_xorWord_transform (k : KeySize) (i : Nat) (h : k.words ≤ i ∧ i < k.scheduleWords) (a p : Word)
    (j : Fin 4) : (xorWord a (transform k i h p))[j] = a[j] ^^^ transformByte k.words i p j := by
  simp

/-! ### The uops (R135, R136) -/

/-- The bytes of a word of the key, where they stand in KEY (R52). -/
theorem getElem?_key (key : KeyBytes) {i : Nat} (hi : i < 8) (j : Fin 4) :
    key[4 * i + j.val]? = some (keyWord key i hi)[j] := by
  rw [Vector.getElem?_eq_getElem (by omega)]
  exact congrArg some (getElem_keyWord key i hi j.val j.isLt).symm

/-- Settles O18: the key's word is written at `i`, and KIDX counts. -/
theorem kexpCopyResult : Obligations.KexpCopyResult := by
  unfold Obligations.KexpCopyResult
  intro s k i hk hi
  have hb := schedule_bounds k
  have h60 : i.toNat < 60 := by omega
  exact ⟨_, execKexpCopy_eq i s k hk hi, ⟨_, Vector.getElem?_set_self h60, getElem?_key s.key _⟩,
    fun n hn => Vector.getElem?_set_ne h60 hn.symm, rfl⟩

/-- Beginning RUN does not write the schedule (R136). -/
@[simp] theorem ite_beginRun_w (p : Prop) [Decidable p] (s : State) : (if p then beginRun s else s).w = s.w := by
  split <;> rfl

/-- Settles O19: the word of the recurrence is written at `i` and KIDX counts, whether or not RUN begins after it. -/
theorem kexpWordResult : Obligations.KexpWordResult := by
  unfold Obligations.KexpWordResult
  intro s k i hk hlow hhigh
  have hb := schedule_bounds k
  have hi : i.toNat < k.scheduleWords := hhigh
  have h60 : i.toNat < 60 := by omega
  refine ⟨_, execKexpWord_eq i s k hk ⟨hlow, hi⟩, ⟨_, _, _, Vector.getElem?_eq_getElem (by omega),
    Vector.getElem?_eq_getElem (by omega), ?written, getElem_xorWord_transform k _ ⟨hlow, hi⟩ _ _⟩,
    fun n hn => ?others, fun hlast => ?last, fun hlast => ?notLast⟩
  case written => rw [ite_beginRun_w]; exact Vector.getElem?_set_self h60
  case others => rw [ite_beginRun_w]; exact Vector.getElem?_set_ne h60 hn.symm
  case last => rw [ite_beginRun_w]; exact if_pos hlast
  case notLast => rw [ite_beginRun_w]; exact if_neg hlast

/-! ### KeyExpand (R137) -/

/-- A word of the key is a word of the schedule (R52, R137). -/
theorem getElem_keyExpand_of_lt (k : KeySize) (key : KeyBytes) {i : Nat} (hi : i < k.scheduleWords)
    (h : i < k.words) (h8 : i < 8) : (keyExpand k key)[i] = keyWord key i h8 := by
  rw [keyExpand, getElem_expandWords k key i _ _ hi]
  simp [expandWords, h]

/-- A later word is the recurrence on the schedule itself (R137). -/
theorem getElem_keyExpand_of_le (k : KeySize) (key : KeyBytes) {i : Nat} (hi : i < k.scheduleWords)
    (h : k.words ≤ i) :
    (keyExpand k key)[i] =
      xorWord (keyExpand k key)[i - k.words] (transform k i ⟨h, hi⟩ (keyExpand k key)[i - 1]) := by
  have hb := schedule_bounds k
  have hprefix (m : Nat) (hm : m < i) : (keyExpand k key)[m] = (expandWords k key i (by omega))[m] := by
    rw [keyExpand, getElem_expandWords k key m _ _ (by omega), getElem_expandWords k key m i _ hm]
  rw [hprefix (i - k.words) (by omega), hprefix (i - 1) (by omega), keyExpand, getElem_expandWords k key i _ _ hi]
  simp [expandWords, Nat.not_lt.mpr h]

/-- Settles O21: the bytes of the two kinds of word of the schedule. -/
theorem keyExpandRecurrence : Obligations.KeyExpandRecurrence := by
  unfold Obligations.KeyExpandRecurrence
  intro k key
  have hb := schedule_bounds k
  refine ⟨rfl, fun i h hi j => ?copied, fun i h hi j => ?computed⟩
  case copied =>
    rw [getElem_keyExpand_of_lt k key hi h (by omega)]
    exact getElem?_key key _ j
  case computed =>
    refine ⟨_, _, Vector.getElem?_eq_getElem (by omega), Vector.getElem?_eq_getElem (by omega), ?_⟩
    rw [getElem_keyExpand_of_le k key hi h]
    exact getElem_xorWord_transform k i ⟨h, hi⟩ _ _ j

end Sys2Proof.Machine
end

section
/-!
SUPPORT. The KEXP phase as a run (spec/42_key_expansion.md R137, R139): each step writes the next word of KeyExpand, so
that the steps left from any position of the phase complete it.
-/
namespace Sys2Proof.Machine

/-! ### The words written so far -/

/-- The words of `w` below `n` that belong to the schedule of `key` are those of KeyExpand (R137). -/
def HoldsSchedule (k : KeySize) (key : KeyBytes) (n : Nat) (w : Schedule) : Prop :=
  ∀ (j : Nat) (hj : j < k.scheduleWords), j < n → w[j]? = some (keyExpand k key)[j]

theorem holdsSchedule_zero (k : KeySize) (key : KeyBytes) (w : Schedule) : HoldsSchedule k key 0 w :=
  fun _ _ h => absurd h (Nat.not_lt_zero _)

/-- On the words of KeyExpand written so far, the word KEXP computes is the next one (R135, R136, R137). -/
theorem HoldsSchedule.nextWord_eq {k : KeySize} {key : KeyBytes} {w : Schedule} {i : Nat}
    (h : HoldsSchedule k key i w) (hi : i < k.scheduleWords) : nextWord k key w i hi = (keyExpand k key)[i] := by
  have hb := schedule_bounds k
  by_cases hlt : i < k.words
  · rw [getElem_keyExpand_of_lt k key hi hlt (by omega), nextWord, dif_pos hlt]
  · have hword : ∀ m (hm : m < i), w[m] = (keyExpand k key)[m] := fun m hm =>
      Option.some.inj ((Vector.getElem?_eq_getElem _).symm.trans (h m (by omega) hm))
    rw [getElem_keyExpand_of_le k key hi (Nat.le_of_not_lt hlt), nextWord, dif_neg hlt,
      hword (i - k.words) (by omega), hword (i - 1) (by omega)]

/-- Writing it makes one word more. -/
theorem HoldsSchedule.set_nextWord {k : KeySize} {key : KeyBytes} {w : Schedule} {i : Nat}
    (h : HoldsSchedule k key i w) (hi : i < k.scheduleWords) (h60 : i < 60) :
    HoldsSchedule k key (i + 1) (w.set i (nextWord k key w i hi) h60) := by
  intro j hj hlt
  by_cases hji : j = i
  · subst hji
    rw [Vector.getElem?_set_self, h.nextWord_eq hi]
  · rw [Vector.getElem?_set_ne _ (Ne.symm hji), h j hj (by omega)]

/-! ### What the phase leads to -/

/-- The host's turn leaves all but the wires and the plan (log 3). -/
theorem hostTurn_eq (s : State) : hostTurn s = { s with pins := (hostTurn s).pins, plan := (hostTurn s).plan } := by
  unfold hostTurn; split <;> rfl

/-- `t` is `s` with the schedule of KEY in W, at the beginning of RUN, under whatever the host drives there (R136,
R139). -/
structure KeyExpanded (k : KeySize) (s t : State) : Prop where
  words : HoldsSchedule k s.key k.scheduleWords t.w
  above : ∀ i, k.scheduleWords ≤ i → t.w[i]? = s.w[i]?
  count : t.kidx.toNat = k.scheduleWords
  frame : t = { s with w := t.w, kidx := t.kidx, phase := .run, upc := 0#6, pins := t.pins, plan := t.plan }

/-- Writing the last word leads there (R136). -/
theorem keyExpanded_beginRun {s : State} {k : KeySize} {v : Word} {h60 : s.kidx.toNat < 60} (hf : s.fnIn = none)
    (hn : s.kidx.toNat + 1 = k.scheduleWords)
    (hw : HoldsSchedule k s.key (s.kidx.toNat + 1) (s.w.set s.kidx.toNat v h60)) :
    KeyExpanded k s (hostTurn (clearFn (beginRun (putWord s.kidx.toNat h60 v s)))) where
  words := by simpa [← hn] using hw
  above i hle := by
    rw [hostTurn_w]
    exact Vector.getElem?_set_ne h60 (by omega)
  count := by
    rw [hostTurn_kidx, ← hn]
    exact toNat_succ_counter (by omega)
  frame := by
    rw [hostTurn_eq, clearFn, ← hf]
    rfl

/-- What a state with one more word of the schedule written leads to, the state before it leads to (R135, R136). -/
theorem KeyExpanded.of_putWord {s t : State} {k : KeySize} {v : Word} {h60 : s.kidx.toNat < 60} (hf : s.fnIn = none)
    (hi : s.kidx.toNat < k.scheduleWords)
    (h : KeyExpanded k (hostTurn (clearFn (putWord s.kidx.toNat h60 v s))) t) : KeyExpanded k s t where
  words := by simpa using h.words
  above i hle := by
    rw [h.above i hle, hostTurn_w]
    exact Vector.getElem?_set_ne h60 (by omega)
  count := h.count
  frame := by
    rw [h.frame, hostTurn_eq, clearFn, ← hf]
    rfl

/-! ### The steps of the phase -/

/-- KEXP at word KIDX, with the words below it written and the core left alone (R139). -/
structure Expanding (k : KeySize) (s : State) : Prop where
  phase : s.phase = .kexp
  pair : keySizeOf s.nk s.nr = some k
  alone : LeftAlone s
  words : HoldsSchedule k s.key s.kidx.toNat s.w

/-- A step before the last word counts by one and goes on to the same end. -/
theorem Expanding.step_next {s : State} {k : KeySize} (h : Expanding k s) (hi : s.kidx.toNat + 1 < k.scheduleWords) :
    ∃ u, step s = .next u ∧ Expanding k u ∧ u.kidx.toNat = s.kidx.toNat + 1 ∧
      ∀ t, KeyExpanded k u t → KeyExpanded k s t := by
  obtain ⟨hp, hk, ha, hw⟩ := h
  have ⟨hf, hr, _⟩ := ha
  have hb := schedule_bounds k
  have hlt : s.kidx.toNat < k.scheduleWords := by omega
  have h60 : s.kidx.toNat < 60 := by omega
  have hput : putNextWord k s hlt = putWord s.kidx.toNat h60 (nextWord k s.key s.w _ hlt) s := if_neg (by omega)
  have hcount : (s.kidx + 1#6).toNat = s.kidx.toNat + 1 := toNat_succ_counter (by omega)
  have hs := step_kexp hr hf hp hk hlt
  rw [hput] at hs
  refine ⟨_, hs, ⟨by simpa using hp, by simpa using hk, leftAlone_step ha hs, ?_⟩, by simpa using hcount,
    fun t => .of_putWord hf hlt⟩
  simpa [hcount] using hw.set_nextWord hlt h60

/-- The step at the last word ends the phase. -/
theorem Expanding.step_last {s : State} {k : KeySize} (h : Expanding k s) (hn : s.kidx.toNat + 1 = k.scheduleWords) :
    ∃ t, step s = .next t ∧ KeyExpanded k s t := by
  obtain ⟨hp, hk, ha, hw⟩ := h
  have ⟨hf, hr, _⟩ := ha
  have hb := schedule_bounds k
  have hlt : s.kidx.toNat < k.scheduleWords := by omega
  have h60 : s.kidx.toNat < 60 := by omega
  have hput : putNextWord k s hlt = beginRun (putWord s.kidx.toNat h60 (nextWord k s.key s.w _ hlt) s) :=
    if_pos (by omega)
  have hs := step_kexp hr hf hp hk hlt
  rw [hput] at hs
  exact ⟨_, hs, keyExpanded_beginRun hf hn (hw.set_nextWord hlt h60)⟩

/-- The steps left from any position of the phase end it (R139). -/
theorem Expanding.run {k : KeySize} (n : Nat) {s : State} (h : Expanding k s)
    (hn : s.kidx.toNat + (n + 1) = k.scheduleWords) :
    ∃ t : State, Host.Core.run core (n + 1) s = .next t ∧ KeyExpanded k s t := by
  induction n generalizing s with
  | zero =>
    obtain ⟨t, hs, ht⟩ := h.step_last hn
    exact ⟨t, core_run_succ hs 0, ht⟩
  | succ n ih =>
    obtain ⟨u, hs, hu, hcount, hback⟩ := h.step_next (by omega)
    obtain ⟨t, hrun, ht⟩ := ih hu (by omega)
    exact ⟨t, (core_run_succ hs _).trans hrun, hback t ht⟩

/-- Settles O23: from KIDX = 0, where no word has to be written yet, all 4(NR+1) steps of the phase are left. -/
theorem kexpPhaseComputesKeyExpand : Obligations.KexpPhaseComputesKeyExpand := by
  unfold Obligations.KexpPhaseComputesKeyExpand
  intro s k hp hk hkidx hf hnr
  obtain ⟨n, hn⟩ : ∃ n, k.scheduleWords = n + 1 := Nat.exists_eq_succ_of_ne_zero (Nat.succ_ne_zero _)
  have hzero : s.kidx.toNat = 0 := congrArg BitVec.toNat hkidx
  have hstart : Expanding k s := ⟨hp, hk, ⟨hf, hnr⟩, hzero ▸ holdsSchedule_zero k s.key s.w⟩
  obtain ⟨t, hrun, words, above, count, frame⟩ := hstart.run n (by omega)
  exact ⟨t, hn ▸ hrun, fun i hi => words i hi hi, above, count, frame⟩

end Sys2Proof.Machine
end

section
/-!
SUPPORT. The round transforms by cells: what each leaves in every row and column, the two mixing matrices, and with them
the inverse pairs of R157 (spec/43_round_transforms.md R150 to R157).
-/
namespace Sys2Proof.Machine

/-! ### Bytes in place: the substitutions, the rotations and the round key -/

section

variable (s rk : Block) (r c : Nat)

@[simp] theorem cell_subBytes : cell (subBytes s) r c = sbox (cell s r c) := by
  rw [subBytes, cell_fromCells, cell_mod]

@[simp] theorem cell_invSubBytes : cell (invSubBytes s) r c = invSbox (cell s r c) := by
  rw [invSubBytes, cell_fromCells, cell_mod]

@[simp] theorem cell_shiftRows : cell (shiftRows s) r c = cell s r (c + r) := by
  rw [shiftRows, cell_fromCells]
  exact cell_congr s (by omega) (by omega)

/-- Modulo 4, back by `r` is forward by `3 r` (R9). -/
@[simp] theorem cell_invShiftRows : cell (invShiftRows s) r c = cell s r (c + 3 * r) := by
  rw [invShiftRows, cell_fromCells]
  exact cell_congr s (by omega) (by omega)

@[simp] theorem cell_addRoundKey : cell (addRoundKey s rk) r c = cell s r c ^^^ cell rk r c :=
  getElem_addRoundKey s rk _ _

/-- Column `c` of a round key is a word of the schedule (R53). -/
theorem cell_roundKey {n : Nat} (w : Vector Word n) (round : Nat) (h : 4 * round + 3 < n) (r c : Fin 4) :
    cell (roundKey w round h) r c = w[4 * round + c.val][r] := by
  have hrow : (r.val % 4 + 4 * (c.val % 4)) % 4 = r.val := by omega
  have hcolumn : (r.val % 4 + 4 * (c.val % 4)) / 4 = c.val := by omega
  simp only [cell, getElem_roundKey, hrow, hcolumn, Fin.getElem_fin]

@[simp] theorem invSubBytes_subBytes : invSubBytes (subBytes s) = s :=
  block_ext_cells fun r c _ _ => by rw [cell_invSubBytes, cell_subBytes, invSbox_sbox]

@[simp] theorem subBytes_invSubBytes : subBytes (invSubBytes s) = s :=
  block_ext_cells fun r c _ _ => by rw [cell_subBytes, cell_invSubBytes, sbox_invSbox]

@[simp] theorem invShiftRows_shiftRows : invShiftRows (shiftRows s) = s :=
  block_ext_cells fun r c _ _ => by
    rw [cell_invShiftRows, cell_shiftRows]
    exact cell_congr s rfl (by omega)

@[simp] theorem shiftRows_invShiftRows : shiftRows (invShiftRows s) = s :=
  block_ext_cells fun r c _ _ => by
    rw [cell_shiftRows, cell_invShiftRows]
    exact cell_congr s rfl (by omega)

@[simp] theorem addRoundKey_addRoundKey : addRoundKey (addRoundKey s rk) rk = s :=
  block_ext_cells fun r c _ _ => by
    rw [cell_addRoundKey, cell_addRoundKey, BitVec.xor_assoc, BitVec.xor_self, BitVec.xor_zero]

theorem shiftRows_subBytes : shiftRows (subBytes s) = subBytes (shiftRows s) :=
  block_ext_cells fun r c _ _ => by simp only [cell_shiftRows, cell_subBytes]

theorem invShiftRows_subBytes : invShiftRows (subBytes s) = subBytes (invShiftRows s) :=
  block_ext_cells fun r c _ _ => by simp only [cell_invShiftRows, cell_subBytes]

theorem invShiftRows_invSubBytes : invShiftRows (invSubBytes s) = invSubBytes (invShiftRows s) :=
  block_ext_cells fun r c _ _ => by simp only [cell_invShiftRows, cell_invSubBytes]

end

/-! ### The mixing matrices -/

/-- Row 0 of the MixColumns matrix (R154). -/
def mixRow : Vector Byte 4 := #v[0x02#8, 0x03#8, 0x01#8, 0x01#8]

/-- Row 0 of the InvMixColumns matrix (R155). -/
def invMixRow : Vector Byte 4 := #v[0x0e#8, 0x0b#8, 0x0d#8, 0x09#8]

section

variable (s u : Block) (c : Nat)

/-! Rows count modulo 4 (R9): the rows that a sum over a column from rows 1 to 3 reaches. -/

theorem cell_four : cell s 4 c = cell s 0 c := rfl
theorem cell_five : cell s 5 c = cell s 1 c := rfl
theorem cell_six : cell s 6 c = cell s 2 c := rfl

theorem cell_mod_add (r j : Nat) : cell s (r % 4 + j) (c % 4) = cell s (r + j) c :=
  cell_congr s (by omega) (by omega)

/-- MixColumns by XTIME (R154). -/
theorem cell_mixColumns_xtime (r : Nat) :
    cell (mixColumns s) r c =
      xtime (cell s r c) ^^^ (xtime (cell s (r + 1) c) ^^^ cell s (r + 1) c) ^^^ cell s (r + 2) c ^^^
        cell s (r + 3) c := by
  simp only [mixColumns, cell_fromCells, cell_mod_add, cell_mod]

/-- InvMixColumns by GMUL (R155). -/
theorem cell_invMixColumns_gmul (r : Nat) :
    cell (invMixColumns s) r c =
      gmul (cell s r c) 0x0e#8 ^^^ gmul (cell s (r + 1) c) 0x0b#8 ^^^ gmul (cell s (r + 2) c) 0x0d#8 ^^^
        gmul (cell s (r + 3) c) 0x09#8 := by
  simp only [invMixColumns, cell_fromCells, cell_mod_add, cell_mod]

/-- The coefficients of `row`, taken down the column from row `r` on, are row `r` of the circulant matrix. -/
theorem matrixCell_eq_rotated (row : Vector Byte 4) {r : Nat} (hr : r < 4) :
    matrixCell row s r c =
      gmul (cell s r c) row[0] ^^^ gmul (cell s (r + 1) c) row[1] ^^^ gmul (cell s (r + 2) c) row[2] ^^^
        gmul (cell s (r + 3) c) row[3] := by
  obtain rfl | hpos := Nat.eq_zero_or_pos r
  · rfl
  obtain rfl | rfl | rfl : r = 1 ∨ r = 2 ∨ r = 3 := by omega
  all_goals
    simp only [matrixCell, circulant, Nat.reduceAdd, Nat.reduceMod, Nat.reduceSub, cell_four, cell_five, cell_six]
    ac_rfl

/-- MixColumns is the product with its matrix. -/
theorem cell_mixColumns {r : Nat} (hr : r < 4) : cell (mixColumns s) r c = matrixCell mixRow s r c := by
  rw [cell_mixColumns_xtime, matrixCell_eq_rotated s c mixRow hr]
  have h0 : mixRow[0] = 0x02#8 := rfl
  have h1 : mixRow[1] = 0x03#8 := rfl
  have h2 : mixRow[2] = 0x01#8 := rfl
  have h3 : mixRow[3] = 0x01#8 := rfl
  simp only [h0, h1, h2, h3, gmul_eq_polyMul, polyMul_two, polyMul_three, polyMul_one]

/-- InvMixColumns is the product with its matrix. -/
theorem cell_invMixColumns {r : Nat} (hr : r < 4) : cell (invMixColumns s) r c = matrixCell invMixRow s r c :=
  (cell_invMixColumns_gmul s c r).trans (matrixCell_eq_rotated s c invMixRow hr).symm

/-- A product with a matrix is linear. -/
theorem matrixCell_addRoundKey (row : Vector Byte 4) (r : Nat) :
    matrixCell row (addRoundKey s u) r c = matrixCell row s r c ^^^ matrixCell row u r c := by
  simp only [matrixCell, gmul_eq_polyMul, cell_addRoundKey, polyMul_xor_left _ _ _]
  ac_rfl

/-- Two products in turn are the product with the product of the matrices. -/
theorem matrixCell_comp {row row' : Vector Byte 4} {t : Block}
    (h : ∀ k < 4, cell t k c = matrixCell row' s k c) (r : Nat) :
    matrixCell row t r c =
      gmul (cell s 0 c) (circulantProduct row row' r 0) ^^^ gmul (cell s 1 c) (circulantProduct row row' r 1) ^^^
        gmul (cell s 2 c) (circulantProduct row row' r 2) ^^^ gmul (cell s 3 c) (circulantProduct row row' r 3) := by
  have hterm (a x y : Byte) : polyMul (polyMul a x) y = polyMul a (polyMul y x) := by
    rw [polyMul_assoc, polyMul_comm x y]
  rw [matrixCell, h 0 (by decide), h 1 (by decide), h 2 (by decide), h 3 (by decide)]
  simp only [matrixCell, circulantProduct, gmul_eq_polyMul, polyMul_xor_left _ _ _, hterm, polyMul_xor_right _ _ _]
  ac_rfl

/-- A product is undone by the product with an inverse matrix. -/
theorem matrixCell_inverse {r : Nat} (hr : r < 4) {row row' : Vector Byte 4} {t : Block}
    (h : ∀ k < 4, cell t k c = matrixCell row' s k c)
    (hinv : ∀ j < 4, circulantProduct row row' r j = if r = j then 0x01#8 else 0x00#8) :
    matrixCell row t r c = cell s r c := by
  rw [matrixCell_comp s c h, hinv 0 (by decide), hinv 1 (by decide), hinv 2 (by decide), hinv 3 (by decide)]
  obtain rfl | rfl | rfl | rfl := place_cases hr
  all_goals
    simp only [reduceIte, Nat.reduceEqDiff, reduceCtorEq, gmul_eq_polyMul, polyMul_one, polyMul_zero, BitVec.xor_zero,
      BitVec.zero_xor]

@[simp] theorem invMixColumns_mixColumns : invMixColumns (mixColumns s) = s :=
  block_ext_cells fun r c hr _ => by
    rw [cell_invMixColumns _ _ hr]
    exact matrixCell_inverse s c hr (fun k hk => cell_mixColumns s c hk)
      fun j hj => (mixColumns_matrices_inverse r hr j hj).2

@[simp] theorem mixColumns_invMixColumns : mixColumns (invMixColumns s) = s :=
  block_ext_cells fun r c hr _ => by
    rw [cell_mixColumns _ _ hr]
    exact matrixCell_inverse s c hr (fun k hk => cell_invMixColumns s c hk)
      fun j hj => (mixColumns_matrices_inverse r hr j hj).1

theorem invMixColumns_addRoundKey :
    invMixColumns (addRoundKey s u) = addRoundKey (invMixColumns s) (invMixColumns u) :=
  block_ext_cells fun r c hr _ => by
    simp only [cell_addRoundKey, cell_invMixColumns _ _ hr, matrixCell_addRoundKey]

/-- Four equal bytes of a column stay as they are (R154). -/
theorem cell_mixColumns_of_equal (h0 : cell s 0 c = cell s 1 c) (h1 : cell s 1 c = cell s 2 c)
    (h2 : cell s 2 c = cell s 3 c) (r : Nat) : cell (mixColumns s) r c = cell s 0 c := by
  have hrow (j : Nat) : cell s j c = cell s 0 c := by
    rw [cell_congr s (Nat.mod_mod j 4).symm (rfl : c % 4 = c % 4)]
    obtain h | h | h | h := place_cases (Nat.mod_lt j (by decide : 0 < 4)) <;> simp only [h, h0, h1, h2]
  rw [cell_mixColumns_xtime, hrow r, hrow (r + 1), hrow (r + 2), hrow (r + 3)]
  rw [← BitVec.xor_assoc, BitVec.xor_self, BitVec.zero_xor, BitVec.xor_self, BitVec.zero_xor]

end

/-! ### The uops -/

/-- Settles O24: the substitution at each cell, which is each byte of the vector. -/
theorem subbytesResult : Obligations.SubbytesResult := by
  unfold Obligations.SubbytesResult
  refine fun s => ⟨putState (subBytes s.state) s, rfl, fun r c _ _ => cell_subBytes s.state r c, fun k hk => ?_, rfl⟩
  rw [putState_state, getElem_eq_cell, cell_subBytes, ← getElem_eq_cell]

/-- Settles O25: the inverse substitution at each cell, and the inverse law of the tables both ways. -/
theorem invsubbytesResult : Obligations.InvsubbytesResult := by
  unfold Obligations.InvsubbytesResult
  exact fun s => ⟨putState (invSubBytes s.state) s, rfl, fun r c _ _ => cell_invSubBytes s.state r c,
    ⟨subBytes_invSubBytes s.state, invSubBytes_subBytes s.state⟩, rfl⟩

/-- Settles O26: the rotation of each row, and the permutation it is on the flat vector. -/
theorem shiftrowsResult : Obligations.ShiftrowsResult := by
  unfold Obligations.ShiftrowsResult
  have hcolumn : ∀ k < 16, (k / 4 + k % 4) % 4 = (k + 4 * (k % 4)) % 16 / 4 % 4 := by decide
  refine fun s => ⟨putState (shiftRows s.state) s, rfl, fun r c _ _ => ?rows, fun k hk => ?flat, rfl⟩
  case rows =>
    rw [putState_state, cell_shiftRows]
    exact cell_congr _ rfl (by omega)
  case flat =>
    rw [putState_state, getElem_eq_cell, cell_shiftRows, getElem_eq_cell]
    exact cell_congr _ (by omega) (hcolumn k hk)

/-- Settles O27: the rotation back in both its readings, its inverse, and the two substitutions, which do not look at
where a byte stands. -/
theorem invshiftrowsResult : Obligations.InvshiftrowsResult := by
  unfold Obligations.InvshiftrowsResult
  refine fun s => ⟨putState (invShiftRows s.state) s, rfl, fun r c _ _ => ?moved, fun r c _ _ => ?taken,
    invShiftRows_shiftRows s.state, ⟨invShiftRows_subBytes s.state, invShiftRows_invSubBytes s.state⟩, rfl⟩
  all_goals
    rw [putState_state, cell_invShiftRows]
    exact cell_congr _ rfl (by omega)

/-- Settles O28: the sums of XTIME, written out for each row, and the matrix product they are. -/
theorem mixcolumnsResult : Obligations.MixcolumnsResult := by
  unfold Obligations.MixcolumnsResult
  refine fun s => ⟨putState (mixColumns s.state) s, rfl, fun c _ => ⟨?row0, ?row1, ?row2, ?row3, ?equal⟩,
    fun r c hr _ => cell_mixColumns s.state c hr, rfl⟩
  case equal => exact fun h0 h1 h2 r _ => cell_mixColumns_of_equal s.state c h0 h1 h2 r
  case row0 => exact cell_mixColumns_xtime s.state c 0
  case row1 | row2 | row3 =>
    simp only [putState_state, cell_mixColumns_xtime, Nat.reduceAdd, cell_four, cell_five, cell_six]
    ac_rfl

/-- Settles O29: the matrix product, which the inverse matrix makes the inverse of MixColumns, and its linearity. -/
theorem invmixcolumnsResult : Obligations.InvmixcolumnsResult := by
  unfold Obligations.InvmixcolumnsResult
  exact fun s => ⟨putState (invMixColumns s.state) s, rfl, fun r c hr _ => cell_invMixColumns s.state c hr,
    invMixColumns_mixColumns s.state, invMixColumns_addRoundKey s.state, rfl⟩

/-- ADDROUNDKEY of a legal round adds the round key of that round (R156). -/
theorem exec_addroundkey {s : State} {round : BitVec 4} (hnr : round.toNat ≤ s.nr.toNat) (h14 : round.toNat ≤ 14) :
    exec (.addroundkey round) s =
      .next (putState (addRoundKey s.state (roundKey s.w round.toNat (by omega))) s) :=
  dif_pos ⟨hnr, h14⟩

/-- Settles O30: the bytes of the round key are those of its four words, and the second application adds the same round
key, as NR and W are not written. -/
theorem addroundkeyResult : Obligations.AddroundkeyResult := by
  unfold Obligations.AddroundkeyResult
  refine fun s round hnr h14 => ⟨_, exec_addroundkey hnr h14,
    fun r c => ⟨_, Vector.getElem?_eq_getElem (by omega), ?bytes⟩, rfl,
    _, exec_addroundkey (s := putState _ s) hnr h14, ?again⟩
  case bytes => rw [putState_state, cell_addRoundKey, cell_roundKey]
  case again => exact addRoundKey_addRoundKey s.state _

/-- Settles O31: the pairs, each from its own lemma. -/
theorem transformInversePairs : Obligations.TransformInversePairs := by
  unfold Obligations.TransformInversePairs
  exact fun s rk => ⟨invSubBytes_subBytes s, invShiftRows_shiftRows s, invMixColumns_mixColumns s,
    addRoundKey_addRoundKey s rk, shiftRows_subBytes s, invShiftRows_invSubBytes s⟩

end Sys2Proof.Machine
end

section
/-!
SUPPORT. Cipher and InvCipher (spec/44_cipher_driver.md R172, R173): round for round, each takes back what the other has
done, in the opposite order.
-/
namespace Sys2Proof.Machine

section

variable {n : Nat} (w : Vector Word n) (nr : Nat) (h : 4 * nr + 3 < n) (s : Block)

/-- The first `j` rounds of decryption take back the last `j` main rounds of encryption (R173). Between them stand the
SubBytes and ShiftRows of the final round, which has no MixColumns. -/
theorem decRounds_encRounds (j i : Nat) (hij : i + j = nr - 1) :
    decRounds w nr h j (shiftRows (subBytes (encRounds w (nr - 1) (by omega) s))) =
      shiftRows (subBytes (encRounds w i (by omega) s)) := by
  induction j generalizing i with
  | zero =>
    obtain rfl : i = nr - 1 := hij
    rfl
  | succ j ih =>
    have hround : nr - (j + 1) = i + 1 := by omega
    rw [decRounds, ih (i + 1) (by omega), invShiftRows_shiftRows, invSubBytes_subBytes, encRounds]
    simp only [hround, addRoundKey_addRoundKey, invMixColumns_mixColumns]

/-- The first `j` rounds of encryption take back the last `j` main rounds of decryption (R172). -/
theorem encRounds_decRounds (j i : Nat) (hij : i + j = nr - 1) :
    encRounds w j (by omega) (invSubBytes (invShiftRows (decRounds w nr h (nr - 1) s))) =
      invSubBytes (invShiftRows (decRounds w nr h i s)) := by
  induction j generalizing i with
  | zero =>
    obtain rfl : i = nr - 1 := hij
    rfl
  | succ j ih =>
    have hround : nr - (i + 1) = j + 1 := by omega
    rw [encRounds, ih (i + 1) (by omega), subBytes_invSubBytes, shiftRows_invShiftRows, decRounds,
      mixColumns_invMixColumns]
    simp only [hround, addRoundKey_addRoundKey]

theorem invCipher_cipher : invCipher (cipher s w nr h) w nr h = s := by
  simp only [invCipher, cipher, addRoundKey_addRoundKey]
  rw [decRounds_encRounds w nr h _ (nr - 1) 0 (Nat.zero_add _), invShiftRows_shiftRows, invSubBytes_subBytes, encRounds,
    addRoundKey_addRoundKey]

theorem cipher_invCipher : cipher (invCipher s w nr h) w nr h = s := by
  simp only [invCipher, cipher, addRoundKey_addRoundKey]
  rw [encRounds_decRounds w nr h _ (nr - 1) 0 (Nat.zero_add _), subBytes_invSubBytes, shiftRows_invShiftRows, decRounds,
    addRoundKey_addRoundKey]

end

/-- Settles O36: both orders, by the rounds taken back one after the other. -/
theorem ciphersInverse : Obligations.CiphersInverse := by
  unfold Obligations.CiphersInverse
  exact fun w nr h b => ⟨invCipher_cipher w nr h b, cipher_invCipher w nr h b⟩

end Sys2Proof.Machine
end

section
/-!
SUPPORT. The uops of the cipher driver (spec/44_cipher_driver.md R170 to R177): what LOADSTATE and STORESTATE do, which
uops stand in the micro-program of an operation, and that every busy step completes and brings DONE one step nearer.
-/
namespace Sys2Proof.Machine

/-! ### LOADSTATE and STORESTATE (R170, R171) -/

/-- LOADSTATE copies BLK into the State. -/
theorem exec_loadstate (s : State) : exec .loadstate s = .next (putState s.blk s) :=
  congrArg (fun v => Host.Outcome.next (putState v s)) (fromCells_cell s.blk)

/-- STORESTATE is the write of OUT. -/
theorem exec_storestate (s : State) : exec .storestate s = .next (putOut s) := rfl

/-- Settles O32: the State is BLK, and a cell inside the 4x4 State is the byte of its own row and column. -/
theorem loadstateResult : Obligations.LoadstateResult := by
  unfold Obligations.LoadstateResult
  refine fun s => ⟨putState s.blk s, exec_loadstate s, fun r c hr hc => ?_, rfl⟩
  simp only [putState_state, cell, Nat.mod_eq_of_lt hr, Nat.mod_eq_of_lt hc]

/-- Settles O33: the frame of `putOut` is that of the statement. -/
theorem storestateResult : Obligations.StorestateResult := by
  unfold Obligations.StorestateResult
  exact exec_storestate

/-! ### The micro-program of an operation (R172, R173) -/

/-- The uops RUN performs for an operation, in order (R91). -/
def microProgram (op : Op) (nr : Nat) : List Instr :=
  match op with
  | .encrypt => cipherUops nr
  | .decrypt => invCipherUops nr

/-- Where a function lists `l`, it names the elements of `l` by position. -/
theorem getElem?_of_map_range {α : Type} {f : Nat → Option α} {l : List α} {n i : Nat}
    (h : (List.range n).map f = l.map some) (hi : i < n) : f i = l[i]? := by
  have hat : some (f i) = l[i]?.map some := by
    rw [← List.getElem?_map, ← h, List.getElem?_map, List.getElem?_range hi, Option.map_some]
  cases hl : l[i]? with
  | none => simp [hl] at hat
  | some a => simpa [hl] using hat

/-- The uop of RUN is the one its position has in the micro-program (R174). -/
theorem runUop_eq_getElem? {s : State} {k : KeySize} (hk : keySizeOf s.nk s.nr = some k)
    (hu : s.upc.toNat ≤ 4 * k.rounds + 1) : runUop s = (microProgram s.op k.rounds)[s.upc.toNat]? := by
  have hl := legalRounds_rounds k
  have hlt : s.upc.toNat < 4 * k.rounds + 2 := by omega
  rw [runUop, (toNat_of_keySizeOf hk).2]
  cases s.op with
  | encrypt => exact getElem?_of_map_range (map_uopEnc hl) hlt
  | decrypt => exact getElem?_of_map_range (map_uopDec hl) hlt

/-- ENCRYPT has no inverse transform (R176). -/
theorem ne_inverse_of_mem_cipherUops {nr : Nat} {i : Instr} (h : i ∈ cipherUops nr) :
    i ≠ .invsubbytes ∧ i ≠ .invshiftrows ∧ i ≠ .invmixcolumns := by
  refine ⟨?_, ?_, ?_⟩ <;> rintro rfl <;> simp [cipherUops, roundUops] at h

/-- DECRYPT has no forward transform (R176). -/
theorem ne_forward_of_mem_invCipherUops {nr : Nat} {i : Instr} (h : i ∈ invCipherUops nr) :
    i ≠ .subbytes ∧ i ≠ .shiftrows ∧ i ≠ .mixcolumns := by
  refine ⟨?_, ?_, ?_⟩ <;> rintro rfl <;> simp [invCipherUops, invRoundUops] at h

/-- The forward transforms are those of ENCRYPT, the inverse ones those of DECRYPT, ADDROUNDKEY is shared (R176). -/
theorem transform_of_mem_microProgram {op : Op} {nr n : Nat} {i : Instr} (hmem : i ∈ microProgram op n)
    (hi : transformsState nr i = true) :
    (∃ round : BitVec 4, i = .addroundkey round ∧ round.toNat ≤ nr) ∨
      (op = .encrypt ∧ (i = .subbytes ∨ i = .shiftrows ∨ i = .mixcolumns)) ∨
      (op = .decrypt ∧ (i = .invsubbytes ∨ i = .invshiftrows ∨ i = .invmixcolumns)) := by
  cases i with
  | addroundkey round => exact .inl ⟨round, rfl, of_decide_eq_true hi⟩
  | subbytes | shiftrows | mixcolumns =>
    cases op with
    | encrypt => simp
    | decrypt => simpa using ne_forward_of_mem_invCipherUops hmem
  | invsubbytes | invshiftrows | invmixcolumns =>
    cases op with
    | encrypt => simpa using ne_inverse_of_mem_cipherUops hmem
    | decrypt => simp
  | _ => cases hi

/-- Settles O35: KEXP by its two ranges of KIDX, RUN by the position of the uop and the micro-program it stands in. -/
theorem sequencerIssuesLegalUops : Obligations.SequencerIssuesLegalUops := by
  unfold Obligations.SequencerIssuesLegalUops
  intro s hinv hr hf
  refine ⟨fun hp => ?kexp, fun hp => ?run⟩
  case kexp =>
    obtain ⟨k, hk, -, -, hi⟩ := (sequencerInv_kexp_iff hp).mp hinv
    have hnk := (toNat_of_keySizeOf hk).1
    refine ⟨s.kidx, k, hk, ?_⟩
    rw [action_of_kexp hr hf hp]
    obtain hlt | hle := Nat.lt_or_ge s.kidx.toNat s.nk.toNat
    · exact .inl ⟨by rw [kexpUop_of_lt hlt], hnk ▸ hlt⟩
    · exact .inr ⟨by rw [kexpUop_of_le hle], hnk ▸ hle, hi⟩
  case run =>
    obtain ⟨k, hk, -, -, hu⟩ := (sequencerInv_run_iff hp).mp hinv
    have hn := nr_le_of_keySizeOf hk
    obtain ⟨i, hi, hat⟩ := runUop_at hk hu
    refine ⟨i, action_of_run hr hf hp hi, hat.wellFormed _ hn, ?_⟩
    cases hat with
    | load => exact .inl rfl
    | store => exact .inr (.inl rfl)
    | transform _ htr =>
      have hmem : i ∈ microProgram s.op k.rounds := List.mem_of_getElem? ((runUop_eq_getElem? hk hu).symm.trans hi)
      obtain ⟨round, rfl, hle⟩ | hop := transform_of_mem_microProgram hmem htr
      · exact .inr (.inr (.inl ⟨round, rfl, hle, Nat.le_trans hle hn⟩))
      · exact .inr (.inr (.inr hop))

/-! ### Every busy step brings DONE nearer (R177, R203) -/

/-- A busy step completes and leaves one step less to DONE. -/
theorem busy_step {s : State} (hinv : SequencerInv s) (hr : s.pins.rst = false) (hf : s.fnIn = none)
    (hbusy : s.phase = .kexp ∨ s.phase = .run) : ∃ t, step s = .next t ∧ remaining t + 1 = remaining s := by
  obtain hp | hp := hbusy
  · obtain ⟨k, hk, -, -, hi⟩ := (sequencerInv_kexp_iff hp).mp hinv
    exact ⟨_, step_kexp hr hf hp hk hi, by simpa using remaining_kexpUop hp (exec_kexpUop hk hi)⟩
  · obtain ⟨k, hk, -, -, hu⟩ := (sequencerInv_run_iff hp).mp hinv
    have hn := nr_le_of_keySizeOf hk
    obtain ⟨i, hi, hat⟩ := runUop_at hk hu
    obtain ⟨u, he, -⟩ := exec_uopAt hn hat
    exact ⟨hostTurn (clearFn u), by rw [step_run hr hf hp hn hi hat, he, afterRun],
      by simpa using remaining_runUop hp hn hi he⟩

/-- But for RESET, a step reaches IDLE only from IDLE or from DONE (R27). -/
theorem idle_or_done_of_step_to_idle {s t : State} (hs : step s = .next t) (hr : s.pins.rst = false)
    (ht : t.phase = .idle) : s.phase = .idle ∨ s.phase = .done := by
  by_cases h : t.phase = s.phase
  · exact .inl (h.symm.trans ht)
  · have hrespond : s.phase = .done ∧ s.pins.rspReady = true := by simpa [ht] using phaseTransitions s t hs hr h
    exact .inr hrespond.1

/-- Out of IDLE no step is left exactly in DONE (R177). -/
theorem remaining_eq_zero_iff {s : State} (hinv : SequencerInv s) (hp : s.phase ≠ .idle) :
    remaining s = 0 ↔ s.phase = .done := by
  refine ⟨fun h => ?_, remaining_done⟩
  cases hph : s.phase with
  | idle => exact absurd hph hp
  | kexp => exact absurd h (Nat.ne_of_gt (remaining_pos hinv (.inl hph)))
  | run => exact absurd h (Nat.ne_of_gt (remaining_pos hinv (.inr hph)))
  | done => rfl

/-- Settles O53: the busy step completes one step nearer to DONE; it keeps the invariant and does not reach IDLE, and
there the count is 0 in DONE alone. -/
theorem remainingDecreases : Obligations.RemainingDecreases := by
  unfold Obligations.RemainingDecreases
  intro s hinv hr hf hbusy
  obtain ⟨t, hs, hrem⟩ := busy_step hinv hr hf hbusy
  have hidle : t.phase ≠ .idle := fun ht => by
    obtain hp | hp := idle_or_done_of_step_to_idle hs hr ht <;> simp [hp] at hbusy
  exact ⟨t, hs, hrem, remaining_eq_zero_iff (sequencerInv_step hinv hs) hidle⟩

end Sys2Proof.Machine
end

section
/-!
SUPPORT. The RUN phase as a run (spec/44_cipher_driver.md R172 to R174): what the uops of a micro-program make of a
State one after the other is Cipher or InvCipher, and the steps of the phase perform them in that order.
-/
namespace Sys2Proof.Machine

/-! ### A micro-program performed on data -/

/-- What a list of uops makes of a State under a schedule, LOADSTATE and STORESTATE leaving it. -/
def transformedBy (uops : List Instr) (w : Schedule) (st : Block) : Block :=
  uops.foldl (fun v i => transformed i w v) st

theorem transformedBy_append (l l' : List Instr) (w : Schedule) (st : Block) :
    transformedBy (l ++ l') w st = transformedBy l' w (transformedBy l w st) :=
  List.foldl_append

section

variable {n : Nat} {w : Vector Word n} {sched : Schedule} (hw : ∀ i (h : i < n), sched[i]? = some w[i])

include hw

/-- The round keys of a schedule do not depend on what W holds above it. -/
theorem roundKey_eq_of_words {r : Nat} (h60 : 4 * r + 3 < 60) (hr : 4 * r + 3 < n) :
    roundKey sched r h60 = roundKey w r hr := by
  have hword : ∀ i (h : i < n) (h' : i < 60), sched[i] = w[i] := fun i h h' =>
    Option.some.inj ((Vector.getElem?_eq_getElem h').symm.trans (hw i h))
  refine Vector.ext fun b hb => ?_
  rw [getElem_roundKey, getElem_roundKey, hword _ (by omega) (by omega)]

theorem transformed_addroundkey {r : Nat} (h14 : r ≤ 14) (hr : 4 * r + 3 < n) (st : Block) :
    transformed (.addroundkey (BitVec.ofNat 4 r)) sched st = addRoundKey st (roundKey w r hr) := by
  have hcode : (BitVec.ofNat 4 r).toNat = r := BitVec.toNat_ofNat .. ▸ Nat.mod_eq_of_lt (by omega)
  simp only [transformed, hcode, h14, dif_pos, roundKey_eq_of_words hw _ hr]

/-- The main rounds of encryption (R172). -/
theorem transformedBy_rounds {m : Nat} (h14 : m ≤ 14) (hm : 4 * m + 3 < n) (st : Block) :
    transformedBy ((List.range m).flatMap fun j => roundUops (j + 1)) sched st = encRounds w m hm st := by
  induction m with
  | zero => rfl
  | succ m ih =>
    rw [List.range_succ, List.flatMap_append, List.flatMap_singleton, transformedBy_append, ih (by omega) (by omega)]
    exact transformed_addroundkey hw h14 hm _

/-- The main rounds of decryption (R173). -/
theorem transformedBy_invRounds {nr m : Nat} (h14 : nr ≤ 14) (h : 4 * nr + 3 < n) (st : Block) :
    transformedBy ((List.range m).flatMap fun j => invRoundUops (nr - 1 - j)) sched st = decRounds w nr h m st := by
  induction m with
  | zero => rfl
  | succ m ih =>
    have hround : nr - 1 - m = nr - (m + 1) := by omega
    rw [List.range_succ, List.flatMap_append, List.flatMap_singleton, transformedBy_append, ih, hround]
    exact congrArg invMixColumns (transformed_addroundkey hw (by omega) (by omega) _)

/-- Before the main rounds the block is loaded and the first round key added. -/
theorem transformedBy_start {r : Nat} (h14 : r ≤ 14) (hr : 4 * r + 3 < n) (st : Block) :
    transformedBy [.loadstate, .addroundkey (BitVec.ofNat 4 r)] sched st = addRoundKey st (roundKey w r hr) :=
  transformed_addroundkey hw h14 hr st

/-- The micro-program of encryption is Cipher (R91, R172). -/
theorem transformedBy_cipherUops {nr : Nat} (h14 : nr ≤ 14) (h : 4 * nr + 3 < n) (st : Block) :
    transformedBy (cipherUops nr) sched st = cipher st w nr h := by
  rw [cipherUops, transformedBy_append, transformedBy_append, transformedBy_start hw (Nat.zero_le _) (by omega),
    transformedBy_rounds hw (by omega) (by omega)]
  exact transformed_addroundkey hw h14 h _

/-- The micro-program of decryption is InvCipher (R91, R173). -/
theorem transformedBy_invCipherUops {nr : Nat} (h14 : nr ≤ 14) (h : 4 * nr + 3 < n) (st : Block) :
    transformedBy (invCipherUops nr) sched st = invCipher st w nr h := by
  rw [invCipherUops, transformedBy_append, transformedBy_append, transformedBy_start hw h14 h,
    transformedBy_invRounds hw h14 h]
  exact transformed_addroundkey hw (Nat.zero_le _) (by omega) _

end

/-! ### Runs put together -/

/-- A run that is known so far goes on from there. -/
theorem core_run_add {m : Nat} {s t : State} (h : Host.Core.run core m s = .next t) (n : Nat) :
    Host.Core.run core (m + n) s = Host.Core.run core n t := by
  induction m generalizing s with
  | zero => cases h; rw [Nat.zero_add]
  | succ m ih =>
    rw [Nat.succ_add]
    simp only [Host.Core.run] at h ⊢
    split at h
    · next u hu => exact ih h
    · cases h
    · cases h

/-- A run goes on by one step. -/
theorem core_run_step {n : Nat} {s t u : State} (h : Host.Core.run core n s = .next t) (hs : step t = .next u) :
    Host.Core.run core (n + 1) s = .next u :=
  (core_run_add h 1).trans (core_run_succ hs 0)

/-- What every step keeps, a run keeps. -/
theorem run_keeps {P : State → Prop} (hP : ∀ {s t}, P s → step s = .next t → P t) {n : Nat} {s t : State}
    (h : P s) (hrun : Host.Core.run core n s = .next t) : P t := by
  induction n generalizing s with
  | zero => cases hrun; exact h
  | succ n ih =>
    simp only [Host.Core.run] at hrun
    split at hrun
    · next u hu => exact ih (hP h hu) hrun
    · cases hrun
    · cases hrun

/-! ### The steps of the phase -/

/-- One uop more of a list. -/
theorem transformedBy_take_succ {l : List Instr} {n : Nat} {i : Instr} (h : l[n]? = some i) (w : Schedule)
    (st : Block) : transformedBy (l.take (n + 1)) w st = transformed i w (transformedBy (l.take n) w st) := by
  rw [List.take_add_one, h, transformedBy_append]
  rfl

theorem length_microProgram (op : Op) (k : KeySize) : (microProgram op k.rounds).length = 4 * k.rounds + 2 := by
  have hl := legalRounds_rounds k
  cases op with
  | encrypt => simpa [microProgram] using (congrArg List.length (map_uopEnc hl)).symm
  | decrypt => simpa [microProgram] using (congrArg List.length (map_uopDec hl)).symm

/-- STORESTATE ends the micro-program (R172, R173). -/
theorem microProgram_last (op : Op) (k : KeySize) :
    (microProgram op k.rounds)[4 * k.rounds + 1]? = some .storestate := by
  have hl := legalRounds_rounds k
  have hpos : 4 * (k.rounds - 1) + 2 + 3 = 4 * k.rounds + 1 := by have := rounds_bounds k; omega
  have hlt : 4 * k.rounds + 1 < 4 * k.rounds + 2 := Nat.lt_succ_self _
  cases op with
  | encrypt =>
    have hlast := uopEnc_last hl (j := 3) (by decide)
    exact (getElem?_of_map_range (map_uopEnc hl) hlt).symm.trans (hpos ▸ hlast)
  | decrypt =>
    have hlast := uopDec_last hl (j := 3) (by decide)
    exact (getElem?_of_map_range (map_uopDec hl) hlt).symm.trans (hpos ▸ hlast)

/-- RUN at position 0, the core left alone (R174). -/
structure AtRunStart (k : KeySize) (s : State) : Prop where
  phase : s.phase = .run
  pair : keySizeOf s.nk s.nr = some k
  start : s.upc = 0#6
  alone : LeftAlone s

/-- `t` is `s` after the first `n` uops of its micro-program, under whatever the host drives there (R174). -/
structure Ran (k : KeySize) (n : Nat) (s t : State) : Prop where
  state : 0 < n → t.state = transformedBy ((microProgram s.op k.rounds).take n) s.w s.blk
  count : t.upc.toNat = n
  alone : LeftAlone t
  frame : t = { s with state := t.state, upc := t.upc, pins := t.pins, plan := t.plan }

/-- Where the phase begins, no uop has been performed. -/
theorem AtRunStart.ran_zero {k : KeySize} {s : State} (h : AtRunStart k s) : Ran k 0 s s where
  state h0 := absurd h0 (Nat.lt_irrefl 0)
  count := congrArg BitVec.toNat h.start
  alone := h.alone
  frame := rfl

section

variable {k : KeySize} {n : Nat} {s t : State} (h0 : AtRunStart k s) (h : Ran k n s t)

include h

theorem Ran.blk : t.blk = s.blk := by rw [h.frame]

theorem Ran.w : t.w = s.w := by rw [h.frame]

theorem Ran.op : t.op = s.op := by rw [h.frame]

include h0

theorem Ran.phase : t.phase = .run := by rw [h.frame]; exact h0.phase

theorem Ran.pair : keySizeOf t.nk t.nr = some k := by rw [h.frame]; exact h0.pair

/-- The uop next in the micro-program is the one the step runs. -/
theorem Ran.next_uop (hn : n ≤ 4 * k.rounds + 1) :
    ∃ i, (microProgram s.op k.rounds)[n]? = some i ∧ UopAt t.nr.toNat n i ∧ step t = afterRun (exec i t) := by
  obtain ⟨hf, hr, -⟩ := h.alone
  have hk := h.pair h0
  have hu : t.upc.toNat ≤ 4 * k.rounds + 1 := h.count.symm ▸ hn
  obtain ⟨i, hi, hat⟩ := runUop_at hk hu
  refine ⟨i, ?_, h.count ▸ hat, step_run hr hf (h.phase h0) (nr_le_of_keySizeOf hk) hi hat⟩
  rw [← hi, runUop_eq_getElem? hk hu, h.op, h.count]

/-- Every uop but the last leaves in the State what the micro-program makes of BLK so far. -/
theorem Ran.step_next (hn : n ≤ 4 * k.rounds) : ∃ u, step t = .next u ∧ Ran k (n + 1) s u := by
  obtain ⟨i, hget, hat, hs⟩ := h.next_uop h0 (by omega)
  have hk := h.pair h0
  have hb := rounds_bounds k
  have hexec : exec i t =
      .next (putState (transformedBy ((microProgram s.op k.rounds).take (n + 1)) s.w s.blk) t) := by
    rw [transformedBy_take_succ hget]
    cases hat with
    | load hzero =>
      subst hzero
      rw [exec_loadstate, h.blk]
      rfl
    | transform hpos hi => rw [exec_transformsState (nr_le_of_keySizeOf hk) hi, h.w, h.state hpos]
    | store hlast =>
      have hnr := (toNat_of_keySizeOf hk).2
      omega
  rw [hexec, afterRun] at hs
  refine ⟨_, hs, fun _ => by simp, ?_, leftAlone_step h.alone hs, ?_⟩
  · rw [hostTurn_upc, clearFn_upc, putState_upc, toNat_succ_counter (by have := h.count; omega), h.count]
  · rw [hostTurn_eq, clearFn, ← h0.alone.1, h.frame]
    rfl

end

/-- The uops before the last, one a step. -/
theorem AtRunStart.run {k : KeySize} {s : State} (h : AtRunStart k s) (n : Nat) (hn : n ≤ 4 * k.rounds + 1) :
    ∃ t : State, Host.Core.run core n s = .next t ∧ Ran k n s t := by
  induction n with
  | zero => exact ⟨s, rfl, h.ran_zero⟩
  | succ n ih =>
    obtain ⟨t, hrun, ht⟩ := ih (by omega)
    obtain ⟨u, hs, hu⟩ := ht.step_next h (by omega)
    exact ⟨u, core_run_step hrun hs, hu⟩

/-- `t` is `s` at the end of RUN: OUT is what the micro-program makes of BLK (R171, R174). -/
structure RunDone (k : KeySize) (s t : State) : Prop where
  out : t.out = transformedBy (microProgram s.op k.rounds) s.w s.blk
  count : t.upc.toNat = 4 * k.rounds + 2
  frame : t = { s with state := t.out, out := t.out, phase := .done, upc := t.upc, pins := t.pins, plan := t.plan }

/-- STORESTATE ends the phase. -/
theorem Ran.step_last {k : KeySize} {s t : State} (h0 : AtRunStart k s) (h : Ran k (4 * k.rounds + 1) s t) :
    ∃ u, step t = .next u ∧ RunDone k s u := by
  obtain ⟨i, hget, -, hs⟩ := h.next_uop h0 (Nat.le_refl _)
  have hlast := microProgram_last s.op k
  obtain rfl : Instr.storestate = i := Option.some.inj (hlast.symm.trans hget)
  have hall := transformedBy_take_succ hlast s.w s.blk
  rw [List.take_of_length_le (Nat.le_of_eq (length_microProgram s.op k))] at hall
  have hb := rounds_bounds k
  rw [exec_storestate, afterRun] at hs
  refine ⟨_, hs, ?_, ?_, ?_⟩
  · rw [hostTurn_out, hall]
    exact h.state (Nat.succ_pos _)
  · rw [hostTurn_upc, clearFn_upc, putOut_upc, toNat_succ_counter (by have := h.count; omega), h.count]
  · rw [hostTurn_eq, clearFn, ← h0.alone.1, h.frame]
    rfl

/-- The steps of the phase, the last one included (R177). -/
theorem AtRunStart.run_to_done {k : KeySize} {s : State} (h : AtRunStart k s) :
    ∃ t : State, Host.Core.run core (4 * k.rounds + 2) s = .next t ∧ RunDone k s t := by
  obtain ⟨t, hrun, ht⟩ := h.run _ (Nat.le_refl _)
  obtain ⟨u, hs, hu⟩ := ht.step_last h
  exact ⟨u, core_run_step hrun hs, hu⟩

/-- Settles O37: the steps perform the micro-program of OP on BLK, which is Cipher or InvCipher. -/
theorem runPhaseComputesCipher : Obligations.RunPhaseComputesCipher := by
  unfold Obligations.RunPhaseComputesCipher
  intro s k w hp hk hupc hf hnr hw
  obtain ⟨t, hrun, hout, hcount, hframe⟩ := AtRunStart.run_to_done ⟨hp, hk, hupc, hf, hnr⟩
  refine ⟨t, hrun, ?_, hcount, hframe⟩
  have h14 := (rounds_bounds k).2
  rw [hout]
  cases s.op with
  | encrypt => exact transformedBy_cipherUops hw h14 (last_round_key_in_schedule k) s.blk
  | decrypt => exact transformedBy_invCipherUops hw h14 (last_round_key_in_schedule k) s.blk

end Sys2Proof.Machine
end

section
/-!
SUPPORT. A command from its ACCEPT to its response (spec/45_command_api.md R200 to R205, spec/44_cipher_driver.md R177):
ACCEPT, the KEXP phase and the RUN phase put together, then RESPOND with a host that stays ready.
-/
namespace Sys2Proof.Machine

/-! ### What the host drives over a run (log 3) -/

/-- What the host drives has property `P`, now and at the coming steps. -/
def HostDrives (P : Pins → Prop) (s : State) : Prop := P s.pins ∧ ∀ p ∈ s.plan, P p

/-- The host's turn goes on with the wires of the same plan. -/
theorem hostDrives_hostTurn {P : Pins → Prop} {s u : State} (h : HostDrives P s) (hpins : u.pins = s.pins)
    (hplan : u.plan = s.plan) : HostDrives P (hostTurn u) := by
  obtain ⟨hnow, hall⟩ := h
  cases hcase : s.plan with
  | nil => simp [HostDrives, hpins, hplan, hcase, hnow]
  | cons p ps => simpa [HostDrives, hostTurn, hplan, hcase] using hall

/-- No step writes the wires or the plan. -/
theorem hostDrives_step {P : Pins → Prop} {s t : State} (h : HostDrives P s) (hs : step s = .next t) :
    HostDrives P t := by
  cases step_next_cases hs with
  | reset | fn | idleWait | respond | doneWait => exact hostDrives_hostTurn h rfl rfl
  | accept _ _ hp =>
    obtain ⟨k, -, ha⟩ | ⟨-, ha⟩ := accept_cases hp (opOfCode s.pins.cmdOp) (portKsb s) <;>
      rw [ha] <;> exact hostDrives_hostTurn h rfl rfl
  | kexp _ _ _ u hu =>
    obtain ⟨k, h60, v, -, -, ⟨-, rfl⟩ | ⟨-, rfl⟩⟩ := kexpUop_next hu <;> exact hostDrives_hostTurn h rfl rfl
  | run _ _ _ i hi u hu =>
    obtain ⟨-, rfl⟩ | ⟨-, v, rfl⟩ := runUop_next hi hu <;> exact hostDrives_hostTurn h rfl rfl

/-! ### From ACCEPT to DONE (R201 to R205) -/

theorem stepsToDone_valid {ksb : Ksb} {k : KeySize} (h : decodeKsb ksb = some k) :
    stepsToDone ksb = 1 + k.scheduleWords + (4 * k.rounds + 2) := by
  simp only [stepsToDone, h]

theorem stepsToDone_invalid {ksb : Ksb} (h : decodeKsb ksb = none) : stepsToDone ksb = 1 := by
  simp only [stepsToDone, h]

/-- `t` is in DONE with the response to the command on the port of `s`, which the host has not taken (R204, R205). -/
structure CommandDone (s t : State) : Prop where
  phase : t.phase = .done
  response : responseOf t.status t.out = command (opOfCode s.pins.cmdOp) (portKsb s) (busBytes 32 s.pins.cmdKey)
    (busBytes 16 s.pins.cmdBlock)
  received : t.received = s.received

section

variable {s : State} (h : Accepting s)

include h

/-- A command of an invalid key size is done with its ACCEPT (R202). -/
theorem step_invalid_command (hk : decodeKsb (portKsb s) = none) : ∃ t, step s = .next t ∧ CommandDone s t := by
  have hs := step_of_accepting h
  rw [accept_invalid h.2.2.1 _ hk, afterRun] at hs
  exact ⟨_, hs, by simp, by simp [responseOf, command, hk], by simp⟩

/-- A command of a valid key size is done after its KEXP and its RUN steps (R203). -/
theorem run_valid_command {k : KeySize} (hn : NoReset s) (hk : decodeKsb (portKsb s) = some k) :
    ∃ t : State, Host.Core.run core (1 + k.scheduleWords + (4 * k.rounds + 2)) s = .next t ∧ CommandDone s t := by
  have ⟨_, hf, hp, _⟩ := h
  have hs := step_of_accepting h
  rw [accept_valid hp _ hk, afterRun] at hs
  have ha := leftAlone_step ⟨hf, hn⟩ hs
  obtain ⟨b, hb, hw, -, -, hbframe⟩ := kexpPhaseComputesKeyExpand _ k (by simp) (by simp) (by simp) ha.1 ha.2
  have hab := run_keeps leftAlone_step ha hb
  obtain ⟨t, ht, hout, -, htframe⟩ := runPhaseComputesCipher b k _ (by rw [hbframe]) (by rw [hbframe]; simp)
    (by rw [hbframe]) hab.1 hab.2 hw
  refine ⟨t, ?_, ?_, ?_, ?_⟩
  · exact (core_run_add ((core_run_add (core_run_succ hs 0) _).trans hb) _).trans ht
  · rw [htframe]
  · have hblock : t.out = transformBlock b.op k (busBytes 32 s.pins.cmdKey) b.blk := by
      rw [hout, hostTurn_key]
      cases b.op <;> rfl
    have hstatus : t.status = .ok := by rw [htframe, hbframe]; simp
    have hop : b.op = opOfCode s.pins.cmdOp := by rw [hbframe]; simp
    have hblk : b.blk = busBytes 16 s.pins.cmdBlock := by rw [hbframe]; simp
    simp [hstatus, hblock, hop, hblk, responseOf, command, hk]
  · rw [htframe, hbframe]
    simp

/-- Either way the command is done after the steps R177 counts. -/
theorem run_command (hn : NoReset s) :
    ∃ t : State, Host.Core.run core (stepsToDone (portKsb s)) s = .next t ∧ CommandDone s t := by
  cases hk : decodeKsb (portKsb s) with
  | none =>
    obtain ⟨t, hs, ht⟩ := step_invalid_command h hk
    exact ⟨t, stepsToDone_invalid hk ▸ core_run_succ hs 0, ht⟩
  | some k =>
    rw [stepsToDone_valid hk]
    exact run_valid_command h hn hk

end

/-! ### The response -/

/-- RESPOND, with a ready host, no reset and nothing on a function unit's bus (R204). -/
theorem step_respond {s : State} (hr : s.pins.rst = false) (hf : s.fnIn = none) (hp : s.phase = .done)
    (hy : s.pins.rspReady = true) : step s = .next (hostTurn (respond s)) := by
  simp [step, action, hr, hf, hp, hy]

/-- Settles O57: the command is done after its steps, and the host, still ready there, takes the response. -/
theorem commandAnswered : Obligations.CommandAnswered := by
  unfold Obligations.CommandAnswered
  refine ⟨fun s hp hv hf hn hy hready => ?_, rfl, rfl, rfl, fun ksb h128 h192 h256 => ?_⟩
  · obtain ⟨t, hrun, hdone, hresponse, hreceived⟩ := run_command ⟨hn.1, hf, hp, hv⟩ hn
    obtain ⟨hft, hrt, -⟩ := run_keeps leftAlone_step ⟨hf, hn⟩ hrun
    obtain ⟨hyt, -⟩ := run_keeps (P := HostDrives fun p => p.rspReady = true) hostDrives_step ⟨hy, hready⟩ hrun
    refine ⟨_, core_run_step hrun (step_respond hrt hft hdone hyt), by simp, ?_⟩
    rw [hostTurn_received, respond_received, hresponse, hreceived]
  · rw [stepsToDone_invalid ((decodeKsb_eq_none ksb).mpr ⟨h128, h192, h256⟩)]

end Sys2Proof.Machine
end

section
/-!
SUPPORT. The handshakes and ACCEPT (spec/45_command_api.md R201 to R204, R208 to R213): one rule for each step that is
not an instruction, ACCEPT in IDLE and out of it, and that under the sequencer's invariant one of these steps is always
enabled.
-/
namespace Sys2Proof.Machine

/-! ### The steps that run no instruction -/

section

variable {s : State}

/-- RESET, whatever else is on the wires (R250). -/
theorem step_reset (hr : s.pins.rst = true) : step s = .next (hostTurn (resetRegisters s)) := by
  simp [step, action, hr]

/-- IDLE without a command (R201). -/
theorem step_idle_wait (hr : s.pins.rst = false) (hf : s.fnIn = none) (hp : s.phase = .idle)
    (hv : s.pins.cmdValid = false) : step s = .next (hostTurn s) := by
  simp [step, action, hr, hf, hp, hv]

/-- DONE without a ready host (R204). -/
theorem step_done_wait (hr : s.pins.rst = false) (hf : s.fnIn = none) (hp : s.phase = .done)
    (hy : s.pins.rspReady = false) : step s = .next (hostTurn s) := by
  simp [step, action, hr, hf, hp, hy]

/-- With nothing on a function unit's bus there is nothing to clear (log 5). -/
theorem clearFn_of_fnIn_none (hf : s.fnIn = none) : clearFn s = s := by
  rw [clearFn, ← hf]

/-- ACCEPT does not write a function unit's bus. -/
@[simp] theorem accept_fnIn (op : Op) (ksb : Ksb) : (accept op ksb s).fnIn = s.fnIn := by
  by_cases hp : s.phase = .idle
  · obtain ⟨k, -, ha⟩ | ⟨-, ha⟩ := accept_cases hp op ksb <;> rw [ha] <;> rfl
  · rw [accept_busy hp]

end

/-- Settles O43, by whether the host is ready. -/
theorem doneRespondsOrWaits : Obligations.DoneRespondsOrWaits := by
  unfold Obligations.DoneRespondsOrWaits
  intro s hp hr hf
  refine ⟨by simp [rspValid, hp], fun hy => ?_, step_done_wait hr hf hp⟩
  rw [step_respond hr hf hp hy]
  exact ⟨fun hst => by simp only [respond, hst, responseOf], fun hst => by simp only [respond, hst, responseOf]⟩

/-- Settles O44, by whether a command is on the port. -/
theorem idleAcceptsOrWaits : Obligations.IdleAcceptsOrWaits := by
  unfold Obligations.IdleAcceptsOrWaits
  intro s hp hr hf
  refine ⟨by simp [cmdReady, hp], step_idle_wait hr hf hp, fun hv => ?_⟩
  rw [step_of_accepting ⟨hr, hf, hp, hv⟩, afterRun, clearFn_of_fnIn_none (by simpa using hf)]

/-! ### ACCEPT of the command forms -/

/-- The row of a recognised key size is ACCEPT of it (R201, R208 to R213). -/
theorem exec_cmdRow_recognised {s : State} (hp : s.phase = .idle) (op : Op) (k : KeySize) :
    exec (cmdRow (opCode op) (32 * k.words)) s =
      .next (acceptedAs op (32 * k.words) (BitVec.ofNat 4 k.words) (BitVec.ofNat 4 k.rounds) s) := by
  have hk : decodeKsb (32 * k.words) = some k := (decodeKsb_eq_some _ k).mpr rfl
  have hop : opOfCode (opCode op) = op := by cases op <;> rfl
  rw [exec_cmdRow, hop, accept_eq_acceptedAs hp op hk]

/-- Settles O38: the six forms are the rows of the two operations and the three key sizes. -/
theorem acceptValidForms : Obligations.AcceptValidForms := by
  unfold Obligations.AcceptValidForms
  intro s hp
  have hrow := exec_cmdRow_recognised hp
  exact ⟨hrow .encrypt .aes128, hrow .encrypt .aes192, hrow .encrypt .aes256, hrow .decrypt .aes128,
    hrow .decrypt .aes192, hrow .decrypt .aes256⟩

/-- Settles O40: both forms are ACCEPT of a keySizeBits that decode_ksb does not recognise. -/
theorem invalidKeySizeTaken : Obligations.InvalidKeySizeTaken := by
  unfold Obligations.InvalidKeySizeTaken
  intro s ksb hp h128 h192 h256
  have hk : decodeKsb ksb = none := (decodeKsb_eq_none ksb).mpr ⟨h128, h192, h256⟩
  exact ⟨congrArg Host.Outcome.next (accept_eq_rejectedAs hp .encrypt hk),
    congrArg Host.Outcome.next (accept_eq_rejectedAs hp .decrypt hk), fun _ => ⟨rfl, rfl, rfl⟩⟩

/-- Each of the eight commands is ACCEPT of an operation and a keySizeBits (R206 to R213). -/
theorem exec_command {i : Instr} {ksb : Ksb} (hi : i ∈ [Instr.encrypt128, .encrypt192, .encrypt256, .decrypt128,
    .decrypt192, .decrypt256, .encrypt ksb, .decrypt ksb]) (s : State) :
    ∃ op ksb', exec i s = .next (accept op ksb' s) := by
  simp only [List.mem_cons, List.not_mem_nil, or_false] at hi
  obtain rfl | rfl | rfl | rfl | rfl | rfl | rfl | rfl := hi <;> exact ⟨_, _, rfl⟩

/-- Settles O41: every command is an ACCEPT, and outside IDLE that has no effect. -/
theorem busyCommandHasNoEffect : Obligations.BusyCommandHasNoEffect := by
  unfold Obligations.BusyCommandHasNoEffect
  refine fun s ksb hp => ⟨by simp [cmdReady, hp], fun i hi => ?_⟩
  obtain ⟨op, ksb', hexec⟩ := exec_command hi s
  rw [hexec, accept_busy hp]

/-! ### Some step is always enabled (R203) -/

/-- Settles O52: reset, an operand on a unit's bus, and then each phase has its step. -/
theorem neverStops : Obligations.NeverStops := by
  unfold Obligations.NeverStops
  intro s hinv hfn
  cases hr : s.pins.rst with
  | true => exact ⟨_, step_reset hr⟩
  | false =>
    cases hf : s.fnIn with
    | some bus =>
      obtain ⟨i, hd⟩ := hfn bus hf
      obtain ⟨r, hexec⟩ := exec_decodeFn hd s
      exact ⟨_, by rw [step_of_run (action_of_fnIn hr hf) hd, hexec, afterRun]⟩
    | none =>
      cases hp : s.phase with
      | idle =>
        cases hv : s.pins.cmdValid with
        | false => exact ⟨_, step_idle_wait hr hf hp hv⟩
        | true => exact ⟨_, step_of_accepting ⟨hr, hf, hp, hv⟩⟩
      | kexp | run =>
        obtain ⟨t, hs, -⟩ := busy_step hinv hr hf (by simp [hp])
        exact ⟨t, hs⟩
      | done =>
        cases hy : s.pins.rspReady with
        | false => exact ⟨_, step_done_wait hr hf hp hy⟩
        | true => exact ⟨_, step_respond hr hf hp hy⟩

end Sys2Proof.Machine
end

section
/-!
SUPPORT. A command as a function of the four values on the port (spec/45_command_api.md R203, R205, R207): the steps
from ACCEPT to DONE offer it, DECRYPT and ENCRYPT undo each other, and nothing the host drives in between but `rst`
reaches the core.
-/
namespace Sys2Proof.Machine

/-! ### What is offered -/

/-- In DONE the response offered is that of STATUS and OUT (R34). -/
theorem offered_of_done {s : State} (hp : s.phase = .done) : offered s = some (responseOf s.status s.out) := by
  simp [offered, rspValid, hp]

/-- Settles O56: the run to DONE, where the response offered is the command's. -/
theorem commandComputes : Obligations.CommandComputes := by
  unfold Obligations.CommandComputes
  intro s hp hv hf hn
  obtain ⟨t, hrun, hdone, hresponse, hreceived⟩ := run_command ⟨hn.1, hf, hp, hv⟩ hn
  exact ⟨t, hrun, by rw [offered_of_done hdone, hresponse], hreceived⟩

/-! ### The round trip (R207) -/

/-- A command answers a block exactly when its key size is recognised, and then the transformed one. -/
theorem command_eq_ok_iff {op : Op} {ksb : Ksb} {key : KeyBytes} {b c : Block} :
    command op ksb key b = .ok c ↔ ∃ k, decodeKsb ksb = some k ∧ transformBlock op k key b = c := by
  unfold command
  split <;> simp_all

section

variable (k : KeySize) (key : KeyBytes) (b : Block)

theorem transformBlock_decrypt_encrypt :
    transformBlock .decrypt k key (transformBlock .encrypt k key b) = b :=
  invCipher_cipher _ _ _ b

theorem transformBlock_encrypt_decrypt :
    transformBlock .encrypt k key (transformBlock .decrypt k key b) = b :=
  cipher_invCipher _ _ _ b

end

/-- Settles O58: both commands transform under the same key size and schedule, and the two transforms are inverse. -/
theorem roundTrip : Obligations.RoundTrip := by
  unfold Obligations.RoundTrip
  intro ksb key b c
  simp only [command_eq_ok_iff]
  constructor
  · rintro ⟨k, hk, rfl⟩
    exact ⟨k, hk, transformBlock_decrypt_encrypt k key b⟩
  · rintro ⟨k, hk, rfl⟩
    exact ⟨k, hk, transformBlock_encrypt_decrypt k key b⟩

/-! ### The same core under another host -/

/-- The same core, the host driving `p` now and `ps` at the coming steps (log 3). -/
def withWires (p : Pins) (ps : List Pins) (s : State) : State := { s with pins := p, plan := ps }

section

variable (p : Pins) (ps : List Pins) (s : State)

/-- No instruction but a command reads the wires, and none writes them. -/
theorem exec_withWires {i : Instr} {w : Nat} (hi : ∀ v word, encode w i ≠ .cmd v word) :
    exec i (withWires p ps s) = mapNext (withWires p ps) (exec i s) := by
  cases i with
  | encrypt128 | encrypt192 | encrypt256 | decrypt128 | decrypt192 | decrypt256 | encrypt _ | decrypt _ =>
    exact absurd rfl (hi _ _)
  | addroundkey round =>
    by_cases h : round.toNat ≤ s.nr.toNat ∧ round.toNat ≤ 14 <;>
      simp [exec, execAddroundkey, withWires, h, mapNext, putState]
  | rcon | kexpCopy | kexpWord =>
    simp only [exec, execRcon, execKexpCopy, execKexpWord, withWires]
    (repeat' split) <;> rfl
  | _ => rfl

/-- The same state after the host's turn, but for what the host drives. -/
theorem hostTurn_clearFn_withWires : hostTurn (clearFn s) =
    { hostTurn (clearFn (withWires p ps s)) with
      pins := (hostTurn (clearFn s)).pins, plan := (hostTurn (clearFn s)).plan } := by
  rw [hostTurn_eq (clearFn (withWires p ps s))]
  exact hostTurn_eq (clearFn s)

/-- In KEXP and RUN what a step presents does not depend on the wires, unless reset is requested (R203). -/
theorem action_withWires (hbusy : s.phase = .kexp ∨ s.phase = .run) (hr : s.pins.rst = false) (hp : p.rst = false) :
    action (withWires p ps s) = action s := by
  obtain hphase | hphase := hbusy <;> simp only [action, withWires, hr, hp, hphase] <;> rfl

end

/-- In KEXP and RUN a step that completes presents no command: a unit's operand or the sequencer's uop (R83, R84). -/
theorem busy_step_presents {s t : State} (hbusy : s.phase = .kexp ∨ s.phase = .run) (hr : s.pins.rst = false)
    (hs : step s = .next t) : ∃ e, action s = .run e ∧ ∀ w word, e ≠ .cmd w word := by
  cases step_next_cases hs with
  | reset hr' => simp [hr] at hr'
  | idleWait _ _ hp | accept _ _ hp | respond _ _ hp | doneWait _ _ hp => simp [hp] at hbusy
  | fn _ bus hf => exact ⟨_, action_of_fnIn hr hf, nofun⟩
  | kexp _ hf hp =>
    obtain ⟨word, hword⟩ := kexpUop_word s.ksbW s
    exact ⟨.uop word, hword ▸ action_of_kexp hr hf hp, nofun⟩
  | run _ hf hp i hi =>
    obtain ⟨word, hword⟩ := runUop_word s.ksbW hi
    exact ⟨.uop word, hword ▸ action_of_run hr hf hp hi, nofun⟩

/-- What is read from the word of no command is encoded in no command's word. -/
theorem encode_ne_cmd_of_decode {e : Encoded} {i : Instr} (hd : decode e = .ok i) (he : ∀ v word, e ≠ .cmd v word)
    (w : Nat) : ∀ v word, encode w i ≠ .cmd v word := by
  cases e with
  | cmd v word => exact absurd rfl (he v word)
  | uop word => exact (encode_of_decodeUop hd w).1 ▸ he
  | fn bus => exact (encode_of_decodeFn hd w).1 ▸ he

/-- A step that presents a word and completes has run its meaning. -/
theorem exec_of_step_run {s t : State} {e : Encoded} (ha : action s = .run e) (hs : step s = .next t) :
    ∃ i u, decode e = .ok i ∧ exec i s = .next u ∧ t = hostTurn (clearFn u) := by
  cases hd : decode e with
  | ok i =>
    obtain ⟨u, hu⟩ := afterRun_eq_next ((step_of_run ha hd).symm.trans hs)
    exact ⟨i, u, rfl, hu⟩
  | error r => simp [step, ha, hd] at hs

/-- Settles O54: the instruction presented is the same, it does not read the wires, and the host's turn writes nothing
else. -/
theorem hostCannotInterfere : Obligations.HostCannotInterfere := by
  unfold Obligations.HostCannotInterfere
  intro s t p ps hbusy hr hp hs
  obtain ⟨e, ha, he⟩ := busy_step_presents hbusy hr hs
  obtain ⟨i, u, hd, hexec, rfl⟩ := exec_of_step_run ha hs
  have hi := encode_ne_cmd_of_decode hd he s.ksbW
  have ha' : action (withWires p ps s) = .run e := (action_withWires p ps s hbusy hr hp).trans ha
  refine ⟨hostTurn (clearFn (withWires p ps u)), ?_, hostTurn_clearFn_withWires p ps u⟩
  rw [← withWires, step_of_run ha' hd, exec_withWires p ps s hi, hexec]
  rfl

end Sys2Proof.Machine
end

section
/-!
SUPPORT. RESET and the absence of hazards (spec/70_reset_and_hazards.md R250, R251, R261): what is offered outside
DONE, and that no data byte is read to select the step.
-/
namespace Sys2Proof.Machine

/-! ### RESET -/

/-- Outside DONE no response is offered (R34). -/
theorem offered_of_not_done {s : State} (hp : s.phase ≠ .done) : offered s = none := by
  simp [offered, rspValid, hp]

/-- Settles O45: RESET enters IDLE, and neither it nor the host's turn after it writes the host's record. -/
theorem resetStep : Obligations.ResetStep := by
  unfold Obligations.ResetStep
  intro s hr
  exact ⟨_, step_reset hr, by simp, by simp [cmdReady], by simp [rspValid], offered_of_not_done (by simp), by simp⟩

/-! ### The step selected, with other data -/

/-- The same control registers and wires over other data: KEY, BLK, STATE, W and OUT (R261). -/
def withData (key : KeyBytes) (blk st out : Block) (w : Schedule) (s : State) : State :=
  { s with key := key, blk := blk, state := st, w := w, out := out }

section

variable (key : KeyBytes) (blk st out : Block) (w : Schedule) (s : State)

/-- KEXP selects its uop by KIDX and NK (R83). -/
@[simp] theorem kexpUop_withData : kexpUop (withData key blk st out w s) = kexpUop s := rfl

/-- RUN selects its uop by OP, NR and UPC (R83). -/
@[simp] theorem runUop_withData : runUop (withData key blk st out w s) = runUop s := rfl

/-- Beside those uops the step is selected by the wires, a function unit's bus, PHASE and the width (R203). -/
theorem action_withData : action (withData key blk st out w s) = action s := by
  rw [action, kexpUop_withData, runUop_withData]
  rfl

end

/-- Settles O55: other data select the same uops, and nothing else is read but the wires, a unit's bus and PHASE. -/
theorem sequenceIndependentOfData : Obligations.SequenceIndependentOfData := by
  unfold Obligations.SequenceIndependentOfData
  intro s key blk st out w
  exact action_withData key blk st out w s

end Sys2Proof.Machine
end
